-- ==== Sys2Proof/Word.lean ====
section
/-! DEFINITION. The word types: the register byte (R9, R22), the 20-bit transaction word TW20 (R90) and the
volt, a rational number (R133, D28). -/

namespace Sys2Proof

/-- One register byte: "every register is one byte" (R9). Bit 0 is the least significant (R10). -/
abbrev Byte := BitVec 8

/-- One transaction word, TW20 (R90). -/
abbrev Tw20 := BitVec 20

/-- An analog value: a rational number of volts (R133, D28). -/
abbrev Volt := Rat

/-- A pin index of the port, 0 to 7 (R9, R34). -/
abbrev PinIx := Fin 8

/-- The number of an analog source, the `D` byte of an ACHAN word (R97, R112). -/
abbrev SourceId := BitVec 8

/-- A sleep mode by its 3-bit code (R8 `SLEEP_MODES`, R111). -/
abbrev SleepMode := BitVec 3

end Sys2Proof
end

