-- ==== Sys2Proof/Config.lean ====
section
/-! DEFINITION. The implementation parameters of R8 as one record of plain data, the types they are made of, and the
free values (constants with no body) for what the spec leaves unsaid. The record is a field of State that no step
writes, so a statement about every state is a statement about every configuration. -/

namespace Sys2Proof

/-- The seven pin states (R33). -/
inductive PinState where
  | low | high | floating | pullUp | pullDown | analog | shorted
  deriving DecidableEq, Repr, Inhabited

/-- The three claimed regions (R60), in the order of the `R` field of TW20 (R90). -/
inductive Region where
  | port | vport | ac
  deriving DecidableEq, Repr, Inhabited

/-- The peripheral that owns a claimed address: PORT and VPORT are one peripheral with one handler pair (R150). -/
inductive Peripheral where
  | port | ac
  deriving DecidableEq, Repr, Inhabited

/-- A channel configuration of a multiplexer (R242): analog source `k`, or the internal reference. -/
inductive ChanSource where
  | src (k : SourceId)
  | ref
  deriving DecidableEq, Repr, Inhabited

/-- The two multiplexers of the comparator (R240). -/
inductive Mux where
  | pos | neg
  deriving DecidableEq, Repr, Inhabited

/-- A hook without its tag, what `unsubscribe(hook)` names (R20 `HookId`, R128): the port's pin-change hook, or a hook
outside the block by its number. -/
inductive HookId where
  | port
  | ext (hook : Nat)
  deriving DecidableEq, Repr, Inhabited

/-- One entry of a subscriber list: the port's own pin-change hook with the pin index as its tag (R35, R220), or a hook
outside the block, known by a number, with its integer tag. -/
inductive Subscriber where
  | port (tag : PinIx)
  | ext (hook : Nat) (tag : Int)
  deriving DecidableEq, Repr, Inhabited

/-- The signal buses the block publishes on (R36): one per pin, the port's output-value signal, the AC output. -/
inductive BusId where
  | pin (i : PinIx)
  | portValue
  | acOut
  deriving DecidableEq, Repr, Inhabited

/-- The subscriber list of every bus (R35, R128), each in subscription order. -/
structure Buses where
  pin       : Vector (List Subscriber) 8
  portValue : List Subscriber
  acOut     : List Subscriber
  deriving DecidableEq, Repr, Inhabited

/-- One entry of the dispatcher's claim table (R44): a claimed absolute address, its owner, offset and mask. -/
structure Claim where
  addr   : Nat
  owner  : Peripheral
  offset : Nat
  mask   : Byte
  deriving DecidableEq, Repr, Inhabited

/-- A hook outside the block as configuration (R8 `PIN_SUBSCRIBERS`): its number and its registration tag. -/
structure ExtHook where
  hook : Nat
  tag  : Int
  deriving DecidableEq, Repr, Inhabited

/-- `PIN_SUBSCRIBERS(i)` (R8, R35): the other subscribers of one pin and their positions relative to the port's hook. -/
structure PinSubscribers where
  before : List ExtHook
  after  : List ExtHook
  deriving DecidableEq, Repr, Inhabited

/-- A hysteresis width, "volts (rational >= 0)" (R8 `AC_HYS`). -/
structure HysWidth where
  volts  : Volt
  nonneg : 0 ≤ volts
  deriving DecidableEq, Repr

/-- The parameters of R8. -/
structure Config where
  /-- `PORT_LETTER`. -/
  portLetter : Char
  /-- `PIN_MASK`: bit i = 1 iff pin i exists. -/
  pinMask : Byte
  /-- `PORT_BASE`. -/
  portBase : Nat
  /-- `HAS_VPORT`. -/
  hasVport : Bool
  /-- `VPORT_BASE`. -/
  vportBase : Nat
  /-- `PORT_VECTOR`. -/
  portVector : Nat
  /-- `AC_BASE`. -/
  acBase : Nat
  /-- `AC_VECTOR`. -/
  acVector : Nat
  /-- `AC_POS_CHANNELS`. -/
  acPosChannels : List ChanSource
  /-- `AC_NEG_CHANNELS`. -/
  acNegChannels : List ChanSource
  /-- `AC_HYS(1)`. -/
  acHys1 : HysWidth
  /-- `AC_HYS(2)`. -/
  acHys2 : HysWidth
  /-- `AC_HYS(3)`. -/
  acHys3 : HysWidth
  /-- `AC_SLEEP_SUSPENDS`: the (mode, RUNSTDBY) pairs that suspend the comparator. -/
  acSleepSuspends : List (SleepMode × Bool)
  /-- `PINCTRL_OFFSET`. -/
  pinctrlOffset : Byte := 0x10#8
  /-- `PORT_SPAN`. -/
  portSpan : Nat := 0x20
  /-- `VPORT_SPAN`. -/
  vportSpan : Nat := 0x04
  /-- `AC_SPAN`. -/
  acSpan : Nat := 0x08
  /-- `PORT_SLEEP_GATED`: "whether any sleep mode disables the port". False is the spec's value (R43, R230, D18); what a
  gated port does in a sleep mode is the two free values below (I11; log entry 13). -/
  portSleepGated : Bool := false
  /-- `LEVEL_REASSERT_ON_CLEAR`. -/
  levelReassertOnClear : Bool := false
  /-- `PIN_SUBSCRIBERS(i)`. -/
  pinSubscribers : Vector PinSubscribers 8
  /-- The subscribers of the port's output-value signal, in order (R223). -/
  portValueSubscribers : List ExtHook
  /-- The subscribers of the AC output signal, in order (R256). -/
  acOutSubscribers : List ExtHook
  /-- `SLEEP_MODES`: the 3-bit codes of the sleep modes the device defines. -/
  sleepModes : List SleepMode
  /-- `IRQ_PRIORITY`: vector ids in order. Environment only: no rule of the block uses it (R8, R308). -/
  irqPriority : List Nat
  /-- The device's pins named `P<PORT_LETTER><i>`, bit i = 1 iff the device has it (R34, R345). -/
  devicePins : Byte
  /-- The addresses the device's other peripherals claim, as (base, span) ranges (R61, R345). -/
  foreignRanges : List (Nat × Nat)
  deriving DecidableEq, Repr

/-- The configuration that the conventions of 95_test_vectors.md fix; the base addresses, the vector numbers and the
empty priority list are not in the spec. DESIGN CHOICE (log entry 1): unsafe for a claim about a particular chip, safe
for a claim over every state, which quantifies over every configuration. -/
def Config.conventional : Config where
  portLetter := 'A'
  pinMask := 0xFF#8
  portBase := 0x400
  hasVport := true
  vportBase := 0x000
  portVector := 3
  acBase := 0x680
  acVector := 17
  acPosChannels := [.src 0, .src 1]
  acNegChannels := [.ref, .src 2]
  acHys1 := ⟨10 / 1000, by norm_num⟩
  acHys2 := ⟨25 / 1000, by norm_num⟩
  acHys3 := ⟨50 / 1000, by norm_num⟩
  acSleepSuspends := [(1, false), (2, false), (2, true)]
  pinSubscribers := Vector.replicate 8 ⟨[], []⟩
  portValueSubscribers := []
  acOutSubscribers := []
  sleepModes := [0, 1, 2]
  irqPriority := []
  devicePins := 0xFF#8
  foreignRanges := []

/-- FREE VALUE: the claim table that a failed initialization leaves ("Which addresses it claimed ... is not said",
R346). No body: nothing can be proved of it. Log entry 8. -/
opaque Config.partialClaims : Config → List Claim

/-- FREE VALUE: the subscriber lists that a failed initialization leaves (R346). Log entry 8. -/
opaque Config.partialSubs : Config → Buses

/-- FREE VALUE: whether the inputs of a port that `PORT_SLEEP_GATED` gates still sense in a sleep mode: "inputs may still
sense, outputs may freeze — variant-defined" (R230, I11). Log entry 13. -/
opaque Config.gatedInputsSense : Config → SleepMode → Bool

/-- FREE VALUE: whether the outputs of a port that `PORT_SLEEP_GATED` gates freeze in a sleep mode (R230, I11). Log entry
13. -/
opaque Config.gatedOutputsFreeze : Config → SleepMode → Bool

end Sys2Proof
end

