-- ==== Sys2Proof/Syntax.lean ====
section
/-! DEFINITION. The transactions ("instructions", R3): `Instr`, one constructor per row of spec/opcode_table.json, the
refused rows included (R119: "Every 20-bit word matches exactly one row"); `Request`, what the R91 decoder hands to the
block; and what the environment may do at the block's boundary (`Input`, `Action`). -/

namespace Sys2Proof

/-- One row of spec/opcode_table.json per constructor. Field names: `v` a write's data byte, `off` the offset (or event
code) of a row that covers a range of them, `n` a pin index, `m` a sleep-mode code, `k` an analog source, `u` the
out-of-band operand in volts (R90), and the bits of a refused word. A read's `D` byte and an event's unused argument
bits are no field: "two read words differing only in `D` are the same transaction" (R96, R97). -/
inductive Instr where
  /-- RD PORT.DIR: R185. -/
  | rdPortDir
  /-- RD PORT.DIRSET: R185. -/
  | rdPortDirset
  /-- RD PORT.DIRCLR: R185. -/
  | rdPortDirclr
  /-- RD PORT.DIRTGL: R185. -/
  | rdPortDirtgl
  /-- RD PORT.OUT: R185. -/
  | rdPortOut
  /-- RD PORT.OUTSET: R185. -/
  | rdPortOutset
  /-- RD PORT.OUTCLR: R185. -/
  | rdPortOutclr
  /-- RD PORT.OUTTGL: R185. -/
  | rdPortOuttgl
  /-- RD PORT.IN: R185. -/
  | rdPortIn
  /-- RD PORT.INTFLAGS: R185. -/
  | rdPortIntflags
  /-- RD PORT.PIN0CTRL: R185. -/
  | rdPortPin0ctrl
  /-- RD PORT.PIN1CTRL: R185. -/
  | rdPortPin1ctrl
  /-- RD PORT.PIN2CTRL: R185. -/
  | rdPortPin2ctrl
  /-- RD PORT.PIN3CTRL: R185. -/
  | rdPortPin3ctrl
  /-- RD PORT.PIN4CTRL: R185. -/
  | rdPortPin4ctrl
  /-- RD PORT.PIN5CTRL: R185. -/
  | rdPortPin5ctrl
  /-- RD PORT.PIN6CTRL: R185. -/
  | rdPortPin6ctrl
  /-- RD PORT.PIN7CTRL: R185. -/
  | rdPortPin7ctrl
  /-- RD PORT+0x0A..0x0B (reserved): R185. -/
  | rdPortReserved0A (off : Byte)
  /-- RD PORT+0x0C..0x0F (reserved): R185. -/
  | rdPortReserved0C (off : Byte)
  /-- RD PORT+0x18..0x1F (reserved): R185. -/
  | rdPortReserved18 (off : Byte)
  /-- RD PORT+0x20..0x3F (unclaimed): R99. -/
  | rdPortUnclaimed20 (off : Byte)
  /-- RD PORT+0x40..0x7F (unclaimed): R99. -/
  | rdPortUnclaimed40 (off : Byte)
  /-- RD PORT+0x80..0xFF (unclaimed): R99. -/
  | rdPortUnclaimed80 (off : Byte)
  /-- WR PORT.DIR: R171. -/
  | wrPortDir (v : Byte)
  /-- WR PORT.DIRSET: R172. -/
  | wrPortDirset (v : Byte)
  /-- WR PORT.DIRCLR: R173. -/
  | wrPortDirclr (v : Byte)
  /-- WR PORT.DIRTGL: R174. -/
  | wrPortDirtgl (v : Byte)
  /-- WR PORT.OUT: R175. -/
  | wrPortOut (v : Byte)
  /-- WR PORT.OUTSET: R176. -/
  | wrPortOutset (v : Byte)
  /-- WR PORT.OUTCLR: R177. -/
  | wrPortOutclr (v : Byte)
  /-- WR PORT.OUTTGL: R178. -/
  | wrPortOuttgl (v : Byte)
  /-- WR PORT.IN: R179. -/
  | wrPortIn (v : Byte)
  /-- WR PORT.INTFLAGS: R180. -/
  | wrPortIntflags (v : Byte)
  /-- WR PORT.PIN0CTRL: R181. -/
  | wrPortPin0ctrl (v : Byte)
  /-- WR PORT.PIN1CTRL: R181. -/
  | wrPortPin1ctrl (v : Byte)
  /-- WR PORT.PIN2CTRL: R181. -/
  | wrPortPin2ctrl (v : Byte)
  /-- WR PORT.PIN3CTRL: R181. -/
  | wrPortPin3ctrl (v : Byte)
  /-- WR PORT.PIN4CTRL: R181. -/
  | wrPortPin4ctrl (v : Byte)
  /-- WR PORT.PIN5CTRL: R181. -/
  | wrPortPin5ctrl (v : Byte)
  /-- WR PORT.PIN6CTRL: R181. -/
  | wrPortPin6ctrl (v : Byte)
  /-- WR PORT.PIN7CTRL: R181. -/
  | wrPortPin7ctrl (v : Byte)
  /-- WR PORT+0x0A..0x0B (reserved): R182. -/
  | wrPortReserved0A (off : Byte) (v : Byte)
  /-- WR PORT+0x0C..0x0F (reserved): R182. -/
  | wrPortReserved0C (off : Byte) (v : Byte)
  /-- WR PORT+0x18..0x1F (reserved): R182. -/
  | wrPortReserved18 (off : Byte) (v : Byte)
  /-- WR PORT+0x20..0x3F (unclaimed): R99. -/
  | wrPortUnclaimed20 (off : Byte) (v : Byte)
  /-- WR PORT+0x40..0x7F (unclaimed): R99. -/
  | wrPortUnclaimed40 (off : Byte) (v : Byte)
  /-- WR PORT+0x80..0xFF (unclaimed): R99. -/
  | wrPortUnclaimed80 (off : Byte) (v : Byte)
  /-- RD VPORT.DIR: R200. -/
  | rdVportDir
  /-- RD VPORT.OUT: R200. -/
  | rdVportOut
  /-- RD VPORT.IN: R200. -/
  | rdVportIn
  /-- RD VPORT.INTFLAGS: R200. -/
  | rdVportIntflags
  /-- RD VPORT+0x04..0x07 (unclaimed): R99. -/
  | rdVportUnclaimed04 (off : Byte)
  /-- RD VPORT+0x08..0x0F (unclaimed): R99. -/
  | rdVportUnclaimed08 (off : Byte)
  /-- RD VPORT+0x10..0x1F (unclaimed): R99. -/
  | rdVportUnclaimed10 (off : Byte)
  /-- RD VPORT+0x20..0x3F (unclaimed): R99. -/
  | rdVportUnclaimed20 (off : Byte)
  /-- RD VPORT+0x40..0x7F (unclaimed): R99. -/
  | rdVportUnclaimed40 (off : Byte)
  /-- RD VPORT+0x80..0xFF (unclaimed): R99. -/
  | rdVportUnclaimed80 (off : Byte)
  /-- WR VPORT.DIR: R201. -/
  | wrVportDir (v : Byte)
  /-- WR VPORT.OUT: R202. -/
  | wrVportOut (v : Byte)
  /-- WR VPORT.IN: R203. -/
  | wrVportIn (v : Byte)
  /-- WR VPORT.INTFLAGS: R204. -/
  | wrVportIntflags (v : Byte)
  /-- WR VPORT+0x04..0x07 (unclaimed): R99. -/
  | wrVportUnclaimed04 (off : Byte) (v : Byte)
  /-- WR VPORT+0x08..0x0F (unclaimed): R99. -/
  | wrVportUnclaimed08 (off : Byte) (v : Byte)
  /-- WR VPORT+0x10..0x1F (unclaimed): R99. -/
  | wrVportUnclaimed10 (off : Byte) (v : Byte)
  /-- WR VPORT+0x20..0x3F (unclaimed): R99. -/
  | wrVportUnclaimed20 (off : Byte) (v : Byte)
  /-- WR VPORT+0x40..0x7F (unclaimed): R99. -/
  | wrVportUnclaimed40 (off : Byte) (v : Byte)
  /-- WR VPORT+0x80..0xFF (unclaimed): R99. -/
  | wrVportUnclaimed80 (off : Byte) (v : Byte)
  /-- RD AC.CTRLA: R248. -/
  | rdAcCtrla
  /-- RD AC.MUXCTRLA: R248. -/
  | rdAcMuxctrla
  /-- RD AC.INTCTRL: R248. -/
  | rdAcIntctrl
  /-- RD AC.STATUS: R248. -/
  | rdAcStatus
  /-- RD AC+0x01 (reserved): R248. -/
  | rdAcReserved01
  /-- RD AC+0x03 (reserved): R248. -/
  | rdAcReserved03
  /-- RD AC+0x04..0x05 (reserved): R248. -/
  | rdAcReserved04 (off : Byte)
  /-- RD AC+0x08..0x0F (unclaimed): R99. -/
  | rdAcUnclaimed08 (off : Byte)
  /-- RD AC+0x10..0x1F (unclaimed): R99. -/
  | rdAcUnclaimed10 (off : Byte)
  /-- RD AC+0x20..0x3F (unclaimed): R99. -/
  | rdAcUnclaimed20 (off : Byte)
  /-- RD AC+0x40..0x7F (unclaimed): R99. -/
  | rdAcUnclaimed40 (off : Byte)
  /-- RD AC+0x80..0xFF (unclaimed): R99. -/
  | rdAcUnclaimed80 (off : Byte)
  /-- WR AC.CTRLA: R244. -/
  | wrAcCtrla (v : Byte)
  /-- WR AC.MUXCTRLA: R245. -/
  | wrAcMuxctrla (v : Byte)
  /-- WR AC.INTCTRL: R246. -/
  | wrAcIntctrl (v : Byte)
  /-- WR AC.STATUS: R247. -/
  | wrAcStatus (v : Byte)
  /-- WR AC+0x01 (reserved): R249. -/
  | wrAcReserved01 (v : Byte)
  /-- WR AC+0x03 (reserved): R249. -/
  | wrAcReserved03 (v : Byte)
  /-- WR AC+0x04..0x05 (reserved): R249. -/
  | wrAcReserved04 (off : Byte) (v : Byte)
  /-- WR AC+0x08..0x0F (unclaimed): R99. -/
  | wrAcUnclaimed08 (off : Byte) (v : Byte)
  /-- WR AC+0x10..0x1F (unclaimed): R99. -/
  | wrAcUnclaimed10 (off : Byte) (v : Byte)
  /-- WR AC+0x20..0x3F (unclaimed): R99. -/
  | wrAcUnclaimed20 (off : Byte) (v : Byte)
  /-- WR AC+0x40..0x7F (unclaimed): R99. -/
  | wrAcUnclaimed40 (off : Byte) (v : Byte)
  /-- WR AC+0x80..0xFF (unclaimed): R99. -/
  | wrAcUnclaimed80 (off : Byte) (v : Byte)
  /-- PINSET Low: R108. -/
  | pinsetLow (n : PinIx)
  /-- PINSET High: R108. -/
  | pinsetHigh (n : PinIx)
  /-- PINSET Floating: R108. -/
  | pinsetFloating (n : PinIx)
  /-- PINSET PullUp: R108. -/
  | pinsetPullUp (n : PinIx)
  /-- PINSET PullDown: R108. -/
  | pinsetPullDown (n : PinIx)
  /-- PINSET Analog: R108. -/
  | pinsetAnalog (n : PinIx)
  /-- PINSET Shorted: R108. -/
  | pinsetShorted (n : PinIx)
  /-- PINSET state 7 (reserved): R98. -/
  | pinsetState7 (d : Byte)
  /-- RESET: R109. -/
  | reset
  /-- INIT: R110. -/
  | init
  /-- SLEEP: R111. -/
  | sleep (m : SleepMode)
  /-- WAKE: R111. -/
  | wake
  /-- ACHAN: R112. -/
  | achan (k : SourceId) (u : Volt)
  /-- AREF: R113. -/
  | aref (u : Volt)
  /-- GET_AC_OUT: R114. -/
  | getAcOut
  /-- GET_AC_REF: R114. -/
  | getAcRef
  /-- GET_PORT_SIGNAL: R114. -/
  | getPortSignal
  /-- EVENT 0x0A..0x0B (reserved): R98. -/
  | eventReserved0A (off : Byte) (d : Byte)
  /-- EVENT 0x0C..0x0F (reserved): R98. -/
  | eventReserved0C (off : Byte) (d : Byte)
  /-- EVENT 0x10..0x1F (reserved): R98. -/
  | eventReserved10 (off : Byte) (d : Byte)
  /-- EVENT 0x20..0x3F (reserved): R98. -/
  | eventReserved20 (off : Byte) (d : Byte)
  /-- EVENT 0x40..0x7F (reserved): R98. -/
  | eventReserved40 (off : Byte) (d : Byte)
  /-- EVENT 0x80..0xFF (reserved): R98. -/
  | eventReserved80 (off : Byte) (d : Byte)
  /-- EVENT with W=1 (reserved): R98. -/
  | eventWrite (off : Byte) (d : Byte)
  /-- Z=1 (reserved): R98. -/
  | zReserved (r : BitVec 2) (w : Bool) (off : Byte) (d : Byte)
  deriving DecidableEq, Repr, Inhabited

/-- The register a PORT offset names (R93). -/
inductive PortReg where
  | dir | dirset | dirclr | dirtgl | out | outset | outclr | outtgl | inp | intflags
  | pinctrl (n : PinIx)
  | reserved
  deriving DecidableEq, Repr, Inhabited

/-- The register a VPORT offset names (R94). -/
inductive VportReg where
  | dir | out | inp | intflags | reserved
  deriving DecidableEq, Repr, Inhabited

/-- The register an AC offset names (R95). -/
inductive AcReg where
  | ctrla | muxctrla | intctrl | status | reserved
  deriving DecidableEq, Repr, Inhabited

/-- A decoded transaction, as R91 hands it to the block: a bus read or write at an offset of a region, or an event. -/
inductive Request where
  | read (r : Region) (off : Nat)
  | write (r : Region) (off : Nat) (v : Byte)
  | pinset (n : PinIx) (st : PinState)
  | reset
  | init
  | sleep (m : SleepMode)
  | wake
  | achan (k : SourceId) (u : Volt)
  | aref (u : Volt)
  | getAcOut
  | getAcRef
  | getPortSignal
  deriving DecidableEq, Repr, Inhabited

/-- What arrives at the block's boundary: a TW20 word with its out-of-band operand (R90), a bus access by absolute
address and width (R12 `MemRead`/`MemWrite`, R66), or a CPU instruction fetch (R63). -/
inductive Input where
  | word (w : Tw20) (u : Volt)
  | load (addr width : Nat)
  | store (addr width : Nat) (v : Byte)
  | fetch (addr : Nat)
  deriving DecidableEq, Repr, Inhabited

/-- One thing a hook outside the block does while it is being called (R80, R131, R132): a further transaction, a change
of a subscriber list, the port's own entry included, or not returning at all (R137, R322). -/
inductive Action where
  | input (x : Input)
  | subscribe (bus : BusId) (entry : Subscriber)
  | unsubscribe (bus : BusId) (hook : HookId)
  | spin
  deriving DecidableEq, Repr, Inhabited

/-- What one call of a hook outside the block does, in order. -/
abbrev Reaction := List Action

end Sys2Proof
end

