-- ==== Sys2Proof/WellFormed.lean ====
section
/-! DEFINITION. Which terms of `Instr` are words of their row (a row that covers a range of offsets or event codes holds
only those), and which parameter records R8 allows. -/

namespace Sys2Proof

/-- `lo ≤ off ≤ hi`: the offset (or event code) lies in the row's range. -/
def inRange (lo hi : Nat) (off : Byte) : Bool := decide (lo ≤ off.toNat) && decide (off.toNat ≤ hi)

/-- The term is a word of its row in spec/opcode_table.json. -/
def Instr.wellFormed : Instr → Bool
  | .rdPortDir => true
  | .rdPortDirset => true
  | .rdPortDirclr => true
  | .rdPortDirtgl => true
  | .rdPortOut => true
  | .rdPortOutset => true
  | .rdPortOutclr => true
  | .rdPortOuttgl => true
  | .rdPortIn => true
  | .rdPortIntflags => true
  | .rdPortPin0ctrl => true
  | .rdPortPin1ctrl => true
  | .rdPortPin2ctrl => true
  | .rdPortPin3ctrl => true
  | .rdPortPin4ctrl => true
  | .rdPortPin5ctrl => true
  | .rdPortPin6ctrl => true
  | .rdPortPin7ctrl => true
  | .rdPortReserved0A off => inRange 0x0A 0x0B off
  | .rdPortReserved0C off => inRange 0x0C 0x0F off
  | .rdPortReserved18 off => inRange 0x18 0x1F off
  | .rdPortUnclaimed20 off => inRange 0x20 0x3F off
  | .rdPortUnclaimed40 off => inRange 0x40 0x7F off
  | .rdPortUnclaimed80 off => inRange 0x80 0xFF off
  | .wrPortDir _ => true
  | .wrPortDirset _ => true
  | .wrPortDirclr _ => true
  | .wrPortDirtgl _ => true
  | .wrPortOut _ => true
  | .wrPortOutset _ => true
  | .wrPortOutclr _ => true
  | .wrPortOuttgl _ => true
  | .wrPortIn _ => true
  | .wrPortIntflags _ => true
  | .wrPortPin0ctrl _ => true
  | .wrPortPin1ctrl _ => true
  | .wrPortPin2ctrl _ => true
  | .wrPortPin3ctrl _ => true
  | .wrPortPin4ctrl _ => true
  | .wrPortPin5ctrl _ => true
  | .wrPortPin6ctrl _ => true
  | .wrPortPin7ctrl _ => true
  | .wrPortReserved0A off _ => inRange 0x0A 0x0B off
  | .wrPortReserved0C off _ => inRange 0x0C 0x0F off
  | .wrPortReserved18 off _ => inRange 0x18 0x1F off
  | .wrPortUnclaimed20 off _ => inRange 0x20 0x3F off
  | .wrPortUnclaimed40 off _ => inRange 0x40 0x7F off
  | .wrPortUnclaimed80 off _ => inRange 0x80 0xFF off
  | .rdVportDir => true
  | .rdVportOut => true
  | .rdVportIn => true
  | .rdVportIntflags => true
  | .rdVportUnclaimed04 off => inRange 0x04 0x07 off
  | .rdVportUnclaimed08 off => inRange 0x08 0x0F off
  | .rdVportUnclaimed10 off => inRange 0x10 0x1F off
  | .rdVportUnclaimed20 off => inRange 0x20 0x3F off
  | .rdVportUnclaimed40 off => inRange 0x40 0x7F off
  | .rdVportUnclaimed80 off => inRange 0x80 0xFF off
  | .wrVportDir _ => true
  | .wrVportOut _ => true
  | .wrVportIn _ => true
  | .wrVportIntflags _ => true
  | .wrVportUnclaimed04 off _ => inRange 0x04 0x07 off
  | .wrVportUnclaimed08 off _ => inRange 0x08 0x0F off
  | .wrVportUnclaimed10 off _ => inRange 0x10 0x1F off
  | .wrVportUnclaimed20 off _ => inRange 0x20 0x3F off
  | .wrVportUnclaimed40 off _ => inRange 0x40 0x7F off
  | .wrVportUnclaimed80 off _ => inRange 0x80 0xFF off
  | .rdAcCtrla => true
  | .rdAcMuxctrla => true
  | .rdAcIntctrl => true
  | .rdAcStatus => true
  | .rdAcReserved01 => true
  | .rdAcReserved03 => true
  | .rdAcReserved04 off => inRange 0x04 0x05 off
  | .rdAcUnclaimed08 off => inRange 0x08 0x0F off
  | .rdAcUnclaimed10 off => inRange 0x10 0x1F off
  | .rdAcUnclaimed20 off => inRange 0x20 0x3F off
  | .rdAcUnclaimed40 off => inRange 0x40 0x7F off
  | .rdAcUnclaimed80 off => inRange 0x80 0xFF off
  | .wrAcCtrla _ => true
  | .wrAcMuxctrla _ => true
  | .wrAcIntctrl _ => true
  | .wrAcStatus _ => true
  | .wrAcReserved01 _ => true
  | .wrAcReserved03 _ => true
  | .wrAcReserved04 off _ => inRange 0x04 0x05 off
  | .wrAcUnclaimed08 off _ => inRange 0x08 0x0F off
  | .wrAcUnclaimed10 off _ => inRange 0x10 0x1F off
  | .wrAcUnclaimed20 off _ => inRange 0x20 0x3F off
  | .wrAcUnclaimed40 off _ => inRange 0x40 0x7F off
  | .wrAcUnclaimed80 off _ => inRange 0x80 0xFF off
  | .pinsetLow _ => true
  | .pinsetHigh _ => true
  | .pinsetFloating _ => true
  | .pinsetPullUp _ => true
  | .pinsetPullDown _ => true
  | .pinsetAnalog _ => true
  | .pinsetShorted _ => true
  | .pinsetState7 d => d.extractLsb' 0 3 == 7#3
  | .reset => true
  | .init => true
  | .sleep _ => true
  | .wake => true
  | .achan _ _ => true
  | .aref _ => true
  | .getAcOut => true
  | .getAcRef => true
  | .getPortSignal => true
  | .eventReserved0A off _ => inRange 0x0A 0x0B off
  | .eventReserved0C off _ => inRange 0x0C 0x0F off
  | .eventReserved10 off _ => inRange 0x10 0x1F off
  | .eventReserved20 off _ => inRange 0x20 0x3F off
  | .eventReserved40 off _ => inRange 0x40 0x7F off
  | .eventReserved80 off _ => inRange 0x80 0xFF off
  | .eventWrite _ _ => true
  | .zReserved _ _ _ _ => true

/-- The default layout of R8: `PINCTRL_OFFSET` 0x10, `PORT_SPAN` 0x20, `VPORT_SPAN` 4, `AC_SPAN` 8 ("All rules of this
spec and all rows of opcode_table.json use the defaults", R93). -/
def Config.defaultLayout (c : Config) : Bool :=
  c.pinctrlOffset == 0x10 && c.portSpan == 0x20 && c.vportSpan == 0x04 && c.acSpan == 0x08

/-- The check of an `AC_HYS` value: a number of volts is a width iff it is not negative (R8). -/
def HysWidth.of (u : Volt) : Option HysWidth := if h : 0 ≤ u then some ⟨u, h⟩ else none

end Sys2Proof
end

