-- ==== Sys2Proof/Decode.lean ====
section
/-! DEFINITION. TW20 (R90): the fields of a word, the decoder onto the rows of spec/opcode_table.json, the decoder as
R91's pseudocode states it, and the encoder. -/

namespace Sys2Proof

/-- `R`, bits 19:18. -/
def fieldR (w : Tw20) : BitVec 2 := w.extractLsb' 18 2
/-- `W`, bit 17. -/
def fieldW (w : Tw20) : Bool := w.getLsbD 17
/-- `Z`, bit 16. -/
def fieldZ (w : Tw20) : Bool := w.getLsbD 16
/-- `O`, bits 15:8. -/
def fieldO (w : Tw20) : Byte := w.extractLsb' 8 8
/-- `D`, bits 7:0. -/
def fieldD (w : Tw20) : Byte := w.extractLsb' 0 8

/-- The pin index of a PINSET argument, `D[6:4]` (R97). -/
def pinsetPin (d : Byte) : PinIx := Fin.ofNat 8 (d.extractLsb' 4 3).toNat

/-- The state code of a PINSET argument, `D[2:0]` (R97). -/
def pinsetCode (d : Byte) : BitVec 3 := d.extractLsb' 0 3

/-- The pin state of a code (R103): code 7 is reserved. -/
def PinState.ofCode (c : BitVec 3) : Option PinState :=
  match c.toNat with
  | 0 => some .low
  | 1 => some .high
  | 2 => some .floating
  | 3 => some .pullUp
  | 4 => some .pullDown
  | 5 => some .analog
  | 6 => some .shorted
  | _ => none

/-- The code of a pin state (R103). -/
def PinState.code : PinState → BitVec 3
  | .low => 0 | .high => 1 | .floating => 2 | .pullUp => 3 | .pullDown => 4 | .analog => 5 | .shorted => 6

/-! The table decoder: every word is a word of exactly one row (R119). -/

/-- The row of a bus read of the PORT region at offset `o` (R93, R99, R100). -/
def decodeRdPort (o : Byte) : Instr :=
  match o.toNat with
  | 0x00 => .rdPortDir
  | 0x01 => .rdPortDirset
  | 0x02 => .rdPortDirclr
  | 0x03 => .rdPortDirtgl
  | 0x04 => .rdPortOut
  | 0x05 => .rdPortOutset
  | 0x06 => .rdPortOutclr
  | 0x07 => .rdPortOuttgl
  | 0x08 => .rdPortIn
  | 0x09 => .rdPortIntflags
  | 0x10 => .rdPortPin0ctrl
  | 0x11 => .rdPortPin1ctrl
  | 0x12 => .rdPortPin2ctrl
  | 0x13 => .rdPortPin3ctrl
  | 0x14 => .rdPortPin4ctrl
  | 0x15 => .rdPortPin5ctrl
  | 0x16 => .rdPortPin6ctrl
  | 0x17 => .rdPortPin7ctrl
  | k =>
    if k ≤ 0x0B then .rdPortReserved0A o else
    if k ≤ 0x0F then .rdPortReserved0C o else
    if k ≤ 0x1F then .rdPortReserved18 o else
    if k ≤ 0x3F then .rdPortUnclaimed20 o else
    if k ≤ 0x7F then .rdPortUnclaimed40 o else
    .rdPortUnclaimed80 o

/-- The row of a bus write of the PORT region at offset `o` (R93, R99, R100). -/
def decodeWrPort (o : Byte) (d : Byte) : Instr :=
  match o.toNat with
  | 0x00 => .wrPortDir d
  | 0x01 => .wrPortDirset d
  | 0x02 => .wrPortDirclr d
  | 0x03 => .wrPortDirtgl d
  | 0x04 => .wrPortOut d
  | 0x05 => .wrPortOutset d
  | 0x06 => .wrPortOutclr d
  | 0x07 => .wrPortOuttgl d
  | 0x08 => .wrPortIn d
  | 0x09 => .wrPortIntflags d
  | 0x10 => .wrPortPin0ctrl d
  | 0x11 => .wrPortPin1ctrl d
  | 0x12 => .wrPortPin2ctrl d
  | 0x13 => .wrPortPin3ctrl d
  | 0x14 => .wrPortPin4ctrl d
  | 0x15 => .wrPortPin5ctrl d
  | 0x16 => .wrPortPin6ctrl d
  | 0x17 => .wrPortPin7ctrl d
  | k =>
    if k ≤ 0x0B then .wrPortReserved0A o d else
    if k ≤ 0x0F then .wrPortReserved0C o d else
    if k ≤ 0x1F then .wrPortReserved18 o d else
    if k ≤ 0x3F then .wrPortUnclaimed20 o d else
    if k ≤ 0x7F then .wrPortUnclaimed40 o d else
    .wrPortUnclaimed80 o d

/-- The row of a bus read of the VPORT region at offset `o` (R94, R99, R100). -/
def decodeRdVport (o : Byte) : Instr :=
  match o.toNat with
  | 0x00 => .rdVportDir
  | 0x01 => .rdVportOut
  | 0x02 => .rdVportIn
  | 0x03 => .rdVportIntflags
  | k =>
    if k ≤ 0x07 then .rdVportUnclaimed04 o else
    if k ≤ 0x0F then .rdVportUnclaimed08 o else
    if k ≤ 0x1F then .rdVportUnclaimed10 o else
    if k ≤ 0x3F then .rdVportUnclaimed20 o else
    if k ≤ 0x7F then .rdVportUnclaimed40 o else
    .rdVportUnclaimed80 o

/-- The row of a bus write of the VPORT region at offset `o` (R94, R99, R100). -/
def decodeWrVport (o : Byte) (d : Byte) : Instr :=
  match o.toNat with
  | 0x00 => .wrVportDir d
  | 0x01 => .wrVportOut d
  | 0x02 => .wrVportIn d
  | 0x03 => .wrVportIntflags d
  | k =>
    if k ≤ 0x07 then .wrVportUnclaimed04 o d else
    if k ≤ 0x0F then .wrVportUnclaimed08 o d else
    if k ≤ 0x1F then .wrVportUnclaimed10 o d else
    if k ≤ 0x3F then .wrVportUnclaimed20 o d else
    if k ≤ 0x7F then .wrVportUnclaimed40 o d else
    .wrVportUnclaimed80 o d

/-- The row of a bus read of the AC region at offset `o` (R95, R99, R100). -/
def decodeRdAc (o : Byte) : Instr :=
  match o.toNat with
  | 0x00 => .rdAcCtrla
  | 0x01 => .rdAcReserved01
  | 0x02 => .rdAcMuxctrla
  | 0x03 => .rdAcReserved03
  | 0x06 => .rdAcIntctrl
  | 0x07 => .rdAcStatus
  | k =>
    if k ≤ 0x05 then .rdAcReserved04 o else
    if k ≤ 0x0F then .rdAcUnclaimed08 o else
    if k ≤ 0x1F then .rdAcUnclaimed10 o else
    if k ≤ 0x3F then .rdAcUnclaimed20 o else
    if k ≤ 0x7F then .rdAcUnclaimed40 o else
    .rdAcUnclaimed80 o

/-- The row of a bus write of the AC region at offset `o` (R95, R99, R100). -/
def decodeWrAc (o : Byte) (d : Byte) : Instr :=
  match o.toNat with
  | 0x00 => .wrAcCtrla d
  | 0x01 => .wrAcReserved01 d
  | 0x02 => .wrAcMuxctrla d
  | 0x03 => .wrAcReserved03 d
  | 0x06 => .wrAcIntctrl d
  | 0x07 => .wrAcStatus d
  | k =>
    if k ≤ 0x05 then .wrAcReserved04 o d else
    if k ≤ 0x0F then .wrAcUnclaimed08 o d else
    if k ≤ 0x1F then .wrAcUnclaimed10 o d else
    if k ≤ 0x3F then .wrAcUnclaimed20 o d else
    if k ≤ 0x7F then .wrAcUnclaimed40 o d else
    .wrAcUnclaimed80 o d

/-- The row of an EVENT word with `W = 0` (R97, R98, R103). -/
def decodeEvent (o d : Byte) (u : Volt) : Instr :=
  match o.toNat with
  | 0x00 =>
    match PinState.ofCode (pinsetCode d) with
    | some .low => .pinsetLow (pinsetPin d)
    | some .high => .pinsetHigh (pinsetPin d)
    | some .floating => .pinsetFloating (pinsetPin d)
    | some .pullUp => .pinsetPullUp (pinsetPin d)
    | some .pullDown => .pinsetPullDown (pinsetPin d)
    | some .analog => .pinsetAnalog (pinsetPin d)
    | some .shorted => .pinsetShorted (pinsetPin d)
    | none => .pinsetState7 d
  | 0x01 => .reset
  | 0x02 => .init
  | 0x03 => .sleep (d.extractLsb' 0 3)
  | 0x04 => .wake
  | 0x05 => .achan d u
  | 0x06 => .aref u
  | 0x07 => .getAcOut
  | 0x08 => .getAcRef
  | 0x09 => .getPortSignal
  | k =>
    if k ≤ 0x0B then .eventReserved0A o d else
    if k ≤ 0x0F then .eventReserved0C o d else
    if k ≤ 0x1F then .eventReserved10 o d else
    if k ≤ 0x3F then .eventReserved20 o d else
    if k ≤ 0x7F then .eventReserved40 o d else
    .eventReserved80 o d

/-- The instruction of a TW20 word `w` with operand `u`: the row of spec/opcode_table.json that `w` matches. Total; no
configuration is consulted, "with `HAS_VPORT = false` every row with `R = 01` is read as the refusal" (R119) when it is
performed. -/
def decode (w : Tw20) (u : Volt) : Instr :=
  let o := fieldO w
  let d := fieldD w
  if fieldZ w then .zReserved (fieldR w) (fieldW w) o d
  else match (fieldR w).toNat, fieldW w with
    | 0, false => decodeRdPort o
    | 0, true => decodeWrPort o d
    | 1, false => decodeRdVport o
    | 1, true => decodeWrVport o d
    | 2, false => decodeRdAc o
    | 2, true => decodeWrAc o d
    | _, false => decodeEvent o d u
    | _, true => .eventWrite o d

/-- The fixed name the host asks with: the instruction of the word whose bits are `w` (a word of TW20 has 20 bits; its
out-of-band operand is 0 here). `none` where `w` has a bit above bit 19. -/
def decodeTableWord (nbits w : Nat) : Option Instr :=
  if w < 2 ^ 20 ∧ w < 2 ^ nbits then some (decode (BitVec.ofNat 20 w) 0) else none

/-! The decoder of R91, as its pseudocode states it. -/

/-- The two refusals of the decoder: "The decoder never faults: refusal is its own verdict" (R91, R98, R99). -/
inductive DecodeRefusal where
  | reservedEncoding
  | unclaimed
  deriving DecidableEq, Repr, Inhabited

/-- The base of a region (R60). -/
def Config.base (c : Config) : Region → Nat
  | .port => c.portBase
  | .vport => c.vportBase
  | .ac => c.acBase

/-- `SPAN(region)` (R60). -/
def Config.span (c : Config) : Region → Nat
  | .port => c.portSpan
  | .vport => c.vportSpan
  | .ac => c.acSpan

/-- Whether the region is claimed at all: the VPORT "iff `HAS_VPORT`" (R60). -/
def Config.present (c : Config) : Region → Bool
  | .vport => c.hasVport
  | _ => true

/-- R91's two checks of a bus word: the region is present and the offset lies in its span (R99). -/
def Config.claimsOffset (c : Config) (r : Region) (off : Nat) : Bool :=
  c.present r && decide (off < c.span r)

/-- The region of the `R` field of a bus word, `[PORT, VPORT, AC][R]` (R91). -/
def regionOfField (r : BitVec 2) : Region :=
  match r.toNat with
  | 0 => .port
  | 1 => .vport
  | _ => .ac

/-- `decodeEvent(O, D)` of R97. -/
def requestOfEvent (o d : Byte) (u : Volt) : Except DecodeRefusal Request :=
  match o.toNat with
  | 0x00 =>
    match PinState.ofCode (pinsetCode d) with
    | some st => .ok (.pinset (pinsetPin d) st)
    | none => .error .reservedEncoding
  | 0x01 => .ok .reset
  | 0x02 => .ok .init
  | 0x03 => .ok (.sleep (d.extractLsb' 0 3))
  | 0x04 => .ok .wake
  | 0x05 => .ok (.achan d u)
  | 0x06 => .ok (.aref u)
  | 0x07 => .ok .getAcOut
  | 0x08 => .ok .getAcRef
  | 0x09 => .ok .getPortSignal
  | _ => .error .reservedEncoding

/-- `decode(tw)` of R91. -/
def requestOfWord (c : Config) (w : Tw20) (u : Volt) : Except DecodeRefusal Request :=
  if fieldZ w then .error .reservedEncoding
  else if fieldR w = 3#2 then
    if fieldW w then .error .reservedEncoding else requestOfEvent (fieldO w) (fieldD w) u
  else
    let r := regionOfField (fieldR w)
    if c.claimsOffset r (fieldO w).toNat then
      if fieldW w then .ok (.write r (fieldO w).toNat (fieldD w)) else .ok (.read r (fieldO w).toNat)
    else .error .unclaimed

/-! The encoder (R90: `TW = R<<18 | W<<17 | Z<<16 | O<<8 | D`). -/

/-- The word of five field values. -/
def twWord (r : BitVec 2) (w z : Bool) (o d : Byte) : Tw20 :=
  r ++ BitVec.ofBool w ++ BitVec.ofBool z ++ o ++ d

/-- A bus read of region `r`, canonical `D = 0` (R96). -/
def encodeRead (r : BitVec 2) (o : Byte) : Tw20 := twWord r false false o 0

/-- A bus write of region `r`. -/
def encodeWrite (r : BitVec 2) (o d : Byte) : Tw20 := twWord r true false o d

/-- An EVENT word, `R = 11`, `W = 0` (R97). -/
def encodeEvent (o d : Byte) : Tw20 := twWord 3 false false o d

/-- The argument byte of PINSET: `D[6:4]` the pin, `D[2:0]` the state code, the ignored bits 0 (R97). -/
def pinsetArg (n : PinIx) (st : PinState) : Byte := 0#1 ++ BitVec.ofNat 3 n.val ++ 0#1 ++ st.code

/-- The TW20 word of a well-formed instruction, canonical in the bits the row ignores. -/
def encode : Instr → Tw20
  | .rdPortDir => encodeRead 0 0x00
  | .rdPortDirset => encodeRead 0 0x01
  | .rdPortDirclr => encodeRead 0 0x02
  | .rdPortDirtgl => encodeRead 0 0x03
  | .rdPortOut => encodeRead 0 0x04
  | .rdPortOutset => encodeRead 0 0x05
  | .rdPortOutclr => encodeRead 0 0x06
  | .rdPortOuttgl => encodeRead 0 0x07
  | .rdPortIn => encodeRead 0 0x08
  | .rdPortIntflags => encodeRead 0 0x09
  | .rdPortPin0ctrl => encodeRead 0 0x10
  | .rdPortPin1ctrl => encodeRead 0 0x11
  | .rdPortPin2ctrl => encodeRead 0 0x12
  | .rdPortPin3ctrl => encodeRead 0 0x13
  | .rdPortPin4ctrl => encodeRead 0 0x14
  | .rdPortPin5ctrl => encodeRead 0 0x15
  | .rdPortPin6ctrl => encodeRead 0 0x16
  | .rdPortPin7ctrl => encodeRead 0 0x17
  | .rdPortReserved0A off => encodeRead 0 off
  | .rdPortReserved0C off => encodeRead 0 off
  | .rdPortReserved18 off => encodeRead 0 off
  | .rdPortUnclaimed20 off => encodeRead 0 off
  | .rdPortUnclaimed40 off => encodeRead 0 off
  | .rdPortUnclaimed80 off => encodeRead 0 off
  | .wrPortDir v => encodeWrite 0 0x00 v
  | .wrPortDirset v => encodeWrite 0 0x01 v
  | .wrPortDirclr v => encodeWrite 0 0x02 v
  | .wrPortDirtgl v => encodeWrite 0 0x03 v
  | .wrPortOut v => encodeWrite 0 0x04 v
  | .wrPortOutset v => encodeWrite 0 0x05 v
  | .wrPortOutclr v => encodeWrite 0 0x06 v
  | .wrPortOuttgl v => encodeWrite 0 0x07 v
  | .wrPortIn v => encodeWrite 0 0x08 v
  | .wrPortIntflags v => encodeWrite 0 0x09 v
  | .wrPortPin0ctrl v => encodeWrite 0 0x10 v
  | .wrPortPin1ctrl v => encodeWrite 0 0x11 v
  | .wrPortPin2ctrl v => encodeWrite 0 0x12 v
  | .wrPortPin3ctrl v => encodeWrite 0 0x13 v
  | .wrPortPin4ctrl v => encodeWrite 0 0x14 v
  | .wrPortPin5ctrl v => encodeWrite 0 0x15 v
  | .wrPortPin6ctrl v => encodeWrite 0 0x16 v
  | .wrPortPin7ctrl v => encodeWrite 0 0x17 v
  | .wrPortReserved0A off v => encodeWrite 0 off v
  | .wrPortReserved0C off v => encodeWrite 0 off v
  | .wrPortReserved18 off v => encodeWrite 0 off v
  | .wrPortUnclaimed20 off v => encodeWrite 0 off v
  | .wrPortUnclaimed40 off v => encodeWrite 0 off v
  | .wrPortUnclaimed80 off v => encodeWrite 0 off v
  | .rdVportDir => encodeRead 1 0x00
  | .rdVportOut => encodeRead 1 0x01
  | .rdVportIn => encodeRead 1 0x02
  | .rdVportIntflags => encodeRead 1 0x03
  | .rdVportUnclaimed04 off => encodeRead 1 off
  | .rdVportUnclaimed08 off => encodeRead 1 off
  | .rdVportUnclaimed10 off => encodeRead 1 off
  | .rdVportUnclaimed20 off => encodeRead 1 off
  | .rdVportUnclaimed40 off => encodeRead 1 off
  | .rdVportUnclaimed80 off => encodeRead 1 off
  | .wrVportDir v => encodeWrite 1 0x00 v
  | .wrVportOut v => encodeWrite 1 0x01 v
  | .wrVportIn v => encodeWrite 1 0x02 v
  | .wrVportIntflags v => encodeWrite 1 0x03 v
  | .wrVportUnclaimed04 off v => encodeWrite 1 off v
  | .wrVportUnclaimed08 off v => encodeWrite 1 off v
  | .wrVportUnclaimed10 off v => encodeWrite 1 off v
  | .wrVportUnclaimed20 off v => encodeWrite 1 off v
  | .wrVportUnclaimed40 off v => encodeWrite 1 off v
  | .wrVportUnclaimed80 off v => encodeWrite 1 off v
  | .rdAcCtrla => encodeRead 2 0x00
  | .rdAcMuxctrla => encodeRead 2 0x02
  | .rdAcIntctrl => encodeRead 2 0x06
  | .rdAcStatus => encodeRead 2 0x07
  | .rdAcReserved01 => encodeRead 2 0x01
  | .rdAcReserved03 => encodeRead 2 0x03
  | .rdAcReserved04 off => encodeRead 2 off
  | .rdAcUnclaimed08 off => encodeRead 2 off
  | .rdAcUnclaimed10 off => encodeRead 2 off
  | .rdAcUnclaimed20 off => encodeRead 2 off
  | .rdAcUnclaimed40 off => encodeRead 2 off
  | .rdAcUnclaimed80 off => encodeRead 2 off
  | .wrAcCtrla v => encodeWrite 2 0x00 v
  | .wrAcMuxctrla v => encodeWrite 2 0x02 v
  | .wrAcIntctrl v => encodeWrite 2 0x06 v
  | .wrAcStatus v => encodeWrite 2 0x07 v
  | .wrAcReserved01 v => encodeWrite 2 0x01 v
  | .wrAcReserved03 v => encodeWrite 2 0x03 v
  | .wrAcReserved04 off v => encodeWrite 2 off v
  | .wrAcUnclaimed08 off v => encodeWrite 2 off v
  | .wrAcUnclaimed10 off v => encodeWrite 2 off v
  | .wrAcUnclaimed20 off v => encodeWrite 2 off v
  | .wrAcUnclaimed40 off v => encodeWrite 2 off v
  | .wrAcUnclaimed80 off v => encodeWrite 2 off v
  | .pinsetLow n => encodeEvent 0x00 (pinsetArg n .low)
  | .pinsetHigh n => encodeEvent 0x00 (pinsetArg n .high)
  | .pinsetFloating n => encodeEvent 0x00 (pinsetArg n .floating)
  | .pinsetPullUp n => encodeEvent 0x00 (pinsetArg n .pullUp)
  | .pinsetPullDown n => encodeEvent 0x00 (pinsetArg n .pullDown)
  | .pinsetAnalog n => encodeEvent 0x00 (pinsetArg n .analog)
  | .pinsetShorted n => encodeEvent 0x00 (pinsetArg n .shorted)
  | .pinsetState7 d => encodeEvent 0x00 d
  | .reset => encodeEvent 0x01 0
  | .init => encodeEvent 0x02 0
  | .sleep m => encodeEvent 0x03 (0#5 ++ m)
  | .wake => encodeEvent 0x04 0
  | .achan k _ => encodeEvent 0x05 k
  | .aref _ => encodeEvent 0x06 0
  | .getAcOut => encodeEvent 0x07 0
  | .getAcRef => encodeEvent 0x08 0
  | .getPortSignal => encodeEvent 0x09 0
  | .eventReserved0A off d => encodeEvent off d
  | .eventReserved0C off d => encodeEvent off d
  | .eventReserved10 off d => encodeEvent off d
  | .eventReserved20 off d => encodeEvent off d
  | .eventReserved40 off d => encodeEvent off d
  | .eventReserved80 off d => encodeEvent off d
  | .eventWrite off d => twWord 3 true false off d
  | .zReserved r w off d => twWord r w true off d

/-- The out-of-band operand an instruction is sent with: only ACHAN and AREF carry one (R90). -/
def operandOf : Instr → Volt
  | .achan _ u => u
  | .aref u => u
  | _ => 0

end Sys2Proof
end

