-- ==== Sys2Proof/Machine/Claims.lean ====
section
/-! DEFINITION. What INIT registers, computed from the configuration: which register an offset names (R93 to R95), the
per-address masks (R155), the claim table (R150) and the subscriber lists (R35). -/

namespace Sys2Proof

/-- The register a PORT offset names (R93): "with a different `PINCTRL_OFFSET` the reserved set is every offset ... not
in the table". The ten fixed offsets come first. -/
def Config.portReg (c : Config) (off : Nat) : PortReg :=
  match off with
  | 0x00 => .dir
  | 0x01 => .dirset
  | 0x02 => .dirclr
  | 0x03 => .dirtgl
  | 0x04 => .out
  | 0x05 => .outset
  | 0x06 => .outclr
  | 0x07 => .outtgl
  | 0x08 => .inp
  | 0x09 => .intflags
  | k => if c.pinctrlOffset.toNat ≤ k ∧ k < c.pinctrlOffset.toNat + 8 then .pinctrl (Fin.ofNat 8 (k - c.pinctrlOffset.toNat))
    else .reserved

/-- The register a VPORT offset names (R94). -/
def vportReg (off : Nat) : VportReg :=
  match off with
  | 0x00 => .dir
  | 0x01 => .out
  | 0x02 => .inp
  | 0x03 => .intflags
  | _ => .reserved

/-- The register an AC offset names (R95). -/
def acReg (off : Nat) : AcReg :=
  match off with
  | 0x00 => .ctrla
  | 0x02 => .muxctrla
  | 0x06 => .intctrl
  | 0x07 => .status
  | _ => .reserved

/-- Pin `i` exists: `PIN_MASK[i] = 1` (R34). -/
def Config.hasPin (c : Config) (i : PinIx) : Bool := c.pinMask.getLsbD i.val

/-- The stored mask of AC.CTRLA (R37, R104). -/
def ctrlaMask : Byte := 0xF7#8
/-- The stored mask of AC.MUXCTRLA (R38, R107). -/
def muxctrlaMask : Byte := 0x9B#8
/-- The stored mask of AC.INTCTRL (R39, R107). -/
def intctrlMask : Byte := 0x01#8
/-- The mask of AC.STATUS (R107). -/
def statusMask : Byte := 0x11#8

/-- The mask registered for an address of a region (R155). -/
def Config.maskAt (c : Config) (r : Region) (off : Nat) : Byte :=
  match r with
  | .port =>
    match c.portReg off with
    | .pinctrl n => if c.hasPin n then 0xFF#8 else 0x00#8
    | .reserved => 0x00#8
    | _ => c.pinMask
  | .vport =>
    match vportReg off with
    | .reserved => 0x00#8
    | _ => c.pinMask
  | .ac =>
    match acReg off with
    | .ctrla => ctrlaMask
    | .muxctrla => muxctrlaMask
    | .intctrl => intctrlMask
    | .status => statusMask
    | .reserved => 0x00#8

/-- The peripheral that owns a region: "the PORT and the VPORT are one peripheral" (R150). -/
def regionOwner : Region → Peripheral
  | .port => .port
  | .vport => .port
  | .ac => .ac

/-- The claims of one region, one per address (R150, R343). -/
def Config.regionClaims (c : Config) (r : Region) : List Claim :=
  if c.present r then
    (List.range (c.span r)).map fun o => ⟨c.base r + o, regionOwner r, o, c.maskAt r o⟩
  else []

/-- The claim table INIT writes (R343): PORT, then VPORT if present, then AC. -/
def Config.claimTable (c : Config) : List Claim :=
  c.regionClaims .port ++ c.regionClaims .vport ++ c.regionClaims .ac

/-- `claim(a)` (R152, R153): the entry of a claim table for an absolute address. -/
def claimAt (claims : List Claim) (a : Nat) : Option Claim := claims.find? fun e => e.addr == a

/-- A hook outside the block as a list entry. -/
def subscriberOf (e : ExtHook) : Subscriber := .ext e.hook e.tag

/-- The subscriber list of pin `i` after INIT: on an existing pin the port's hook with tag i and the others around it
(R35, R343); an absent pin has no list. -/
def Config.pinList (c : Config) (i : PinIx) : List Subscriber :=
  if c.hasPin i then
    c.pinSubscribers[i].before.map subscriberOf ++ Subscriber.port i :: c.pinSubscribers[i].after.map subscriberOf
  else []

/-- Every subscriber list after INIT (R35, R343). -/
def Config.subscriptions (c : Config) : Buses where
  pin := Vector.ofFn c.pinList
  portValue := c.portValueSubscribers.map subscriberOf
  acOut := c.acOutSubscribers.map subscriberOf

/-- The hook of a list entry, without its tag (R128). -/
def Subscriber.hookId : Subscriber → HookId
  | .port _ => .port
  | .ext hook _ => .ext hook

/-- No hook stands twice on the list (R129). -/
def noDuplicates (l : List Subscriber) : Bool := decide (l.map Subscriber.hookId).Nodup

/-- Every address of the block is claimed once, and none is another peripheral's (R61, R151). -/
def Config.addressesFree (c : Config) : Bool :=
  decide (c.claimTable.map Claim.addr).Nodup
    && c.claimTable.all fun e => c.foreignRanges.all fun f => !(decide (f.1 ≤ e.addr) && decide (e.addr < f.1 + f.2))

/-- Every pin of `PIN_MASK` is a pin of the device (R345). -/
def Config.pinsPresent (c : Config) : Bool := c.pinMask &&& ~~~c.devicePins == 0#8

/-- No subscriber list of the configuration holds a hook twice (R129, R345). The comparator's subscriptions to its sources
(R264) are not among the lists: whether a source that two entries of `AC_POS_CHANNELS` and `AC_NEG_CHANNELS` name puts the
comparator's hook twice on that source's list is not said, and here it does not fail INIT. DESIGN CHOICE (log entry 24):
unsafe for a claim that such a configuration initializes. -/
def Config.subscribersDistinct (c : Config) : Bool :=
  (List.finRange 8).all (fun i => noDuplicates (c.pinList i))
    && noDuplicates (c.portValueSubscribers.map subscriberOf)
    && noDuplicates (c.acOutSubscribers.map subscriberOf)

/-- Initialization succeeds (R343, R345). -/
def Config.initOk (c : Config) : Bool := c.addressesFree && c.pinsPresent && c.subscribersDistinct

/-- The absolute address `a` in the block's regions, as a region and an offset (R61, R117). -/
def Config.locate (c : Config) (a : Nat) : Option (Region × Nat) :=
  if c.portBase ≤ a ∧ a < c.portBase + c.portSpan then some (.port, a - c.portBase)
  else if c.hasVport ∧ c.vportBase ≤ a ∧ a < c.vportBase + c.vportSpan then some (.vport, a - c.vportBase)
  else if c.acBase ≤ a ∧ a < c.acBase + c.acSpan then some (.ac, a - c.acBase)
  else none

/-- `AC_HYS` with the width 0 for HYSMODE 0 (R105, R250). -/
def Config.acHys (c : Config) (mode : BitVec 2) : Volt :=
  match mode.toNat with
  | 0 => 0
  | 1 => c.acHys1.volts
  | 2 => c.acHys2.volts
  | _ => c.acHys3.volts

/-- `AC_SLEEP_SUSPENDS(m, RUNSTDBY)` (R8). -/
def Config.suspends (c : Config) (m : SleepMode) (runstdby : Bool) : Bool := c.acSleepSuspends.contains (m, runstdby)

/-- A channel table of R8. -/
def Config.channels (c : Config) : Mux → List ChanSource
  | .pos => c.acPosChannels
  | .neg => c.acNegChannels

end Sys2Proof
end

