-- ==== Sys2Proof/Machine/State.lean ====
section
/-! DEFINITION. The state of the block (R20) as plain data, its value after INIT and RESET (R48), and the reasons a step
can stop (R320 to R322). -/

namespace Sys2Proof.Machine

open Sys2Proof

/-- The PORT's registers (R22). The six SET/CLR/TGL pseudo-registers and the VPORT hold no state (R28, R32). -/
structure PortRegs where
  /-- DIR (R23). -/
  dir : Byte
  /-- OUT (R24). -/
  out : Byte
  /-- IN (R25). -/
  inp : Byte
  /-- INTFLAGS (R26). -/
  intflags : Byte
  /-- PIN0CTRL to PIN7CTRL (R27). -/
  pinctrl : Vector Byte 8
  deriving DecidableEq, Repr, Inhabited

/-- The comparator's registers and internal state (R37 to R42). STATUS is `cmp` and `out` (R40). -/
structure AcState where
  /-- AC.CTRLA (R37). -/
  ctrla : Byte
  /-- AC.MUXCTRLA (R38). -/
  muxctrla : Byte
  /-- AC.INTCTRL (R39). -/
  intctrl : Byte
  /-- AC.STATUS.CMP, the interrupt flag (R40). -/
  cmp : Bool
  /-- `ac.raw`, the hysteresis state (R42). -/
  raw : Bool
  /-- `ac.out`, the published output, AC.STATUS.STATE (R40, R42). -/
  out : Bool
  /-- `ac.ref` (R42). -/
  ref : Option Volt
  /-- `ac.chan`: the sources that have delivered, each with its last value, by rising source number (R42). -/
  chan : List (Nat × Volt)
  /-- `ac.suspended` (R42, R43). -/
  suspended : Bool
  deriving DecidableEq, Repr, Inhabited

/-- The lifecycle (R45). -/
inductive InitStatus where
  | uninitialized | initialized | ready | failed
  deriving DecidableEq, Repr, Inhabited

/-- A device pin's name, `P<letter><index>` (R34). -/
structure PinName where
  letter : Char
  index  : PinIx
  deriving DecidableEq, Repr, Inhabited

/-- The identifier of a signal (R126, R223, R256). -/
inductive SignalId where
  | digitalStateChanged | portValue | acOutput
  deriving DecidableEq, Repr, Inhabited

/-- The payload of a signal (R133): a pin state, the IN byte, the comparator output. -/
inductive Payload where
  | pinState (st : PinState)
  | portByte (b : Byte)
  | acBit (b : Bool)
  deriving DecidableEq, Repr, Inhabited

/-- One outward action of the block (R49). The replies of the control requests that are no byte have their own
constructors: GET_AC_REF replies a value in volts, GET_PORT_SIGNAL a handle (R114). -/
inductive Event where
  | raise (vec : Nat)
  | cancel (vec : Nat)
  | pinShorted (name : PinName)
  | signal (bus : BusId) (id : SignalId) (payload : Payload) (tag : Int)
  | readData (b : Byte)
  | readVolt (u : Volt)
  | readHandle (bus : BusId)
  deriving DecidableEq, Repr, Inhabited

/-- The state of the block (R20) with its output trace (R49), the configuration it was constructed with (R8), and what
the environment has put at its boundary. -/
structure State where
  /-- The parameters of R8; no step writes them. -/
  cfg : Config
  /-- The PORT registers (R22). -/
  port : PortRegs
  /-- `pins` (R20, R33, R34): `none` for an absent pin. -/
  pins : Vector (Option PinState) 8
  /-- `subs` (R35) and the subscriber lists of the two other published signals (R36). -/
  subs : Buses
  /-- `bus.delivering` (R130): the buses a raise is in progress on, innermost first. -/
  delivering : List BusId
  /-- `portReq` (R31). -/
  portReq : Bool
  /-- The comparator (R37 to R42). -/
  ac : AcState
  /-- `acReq` (R262). -/
  acReq : Bool
  /-- `sleep` (R43). -/
  sleep : Option SleepMode
  /-- The claim table (R44). -/
  claims : List Claim
  /-- `init` (R45). -/
  init : InitStatus
  /-- The output trace, oldest event first (R49). -/
  trace : List Event
  /-- MODEL's own: what the next calls of hooks outside the block do, in the order they are called; an empty list means
  that they return at once (R16 "the environment's reactions to signals"; log entry 2). -/
  env : List Reaction
  /-- MODEL's own: the inputs waiting at the block's boundary, the next first (R13; log entry 3). -/
  inbox : List Input
  deriving DecidableEq, Repr

/-- The faults of R320 and the hang of R322. Each but the hang keeps the state reached before it "for inspection only"
(R310, R323). All are SAFE: the machine stops where the spec says the run ends. -/
inductive Fault where
  /-- A hook changed the subscriber list of the bus delivering to it (R132). Raised by `deliver`. Safe. -/
  | subscriberListModified (bus : BusId) (kept : State)
  /-- A raise on a bus that is already delivering (R135). Raised by `signalRaise`. Safe. -/
  | reentrantRaise (bus : BusId) (kept : State)
  /-- The comparator evaluated with a selected index beyond its channel list (R242). Raised by `inputValue`. Safe. -/
  | acChannelIndex (mux : Mux) (idx : Nat) (kept : State)
  /-- The comparator evaluated, or GET_AC_REF read, an input nothing has delivered yet (R242). Safe. -/
  | acInputUndefined (src : ChanSource) (kept : State)
  /-- The transaction does not end (R137, R322: "reports exhaustion as a hang, never as a state"). Raised when a hook
  outside the block does not return. Safe. -/
  | hang
  deriving DecidableEq, Repr, Inhabited

/-- The refusals of R321, those of the model's own boundary, and the refusal of an instruction with no meaning yet.
All are SAFE: nothing is performed. -/
inductive Refusal where
  /-- R98, and SLEEP with an unknown mode (R111). Raised by the meanings of the reserved rows and of SLEEP. Safe. -/
  | reservedEncoding
  /-- R99, R72: an address in none of the block's claimed regions. Raised by the bus operations. Safe. -/
  | unclaimed
  /-- R66: a bus access of any width but one byte. Raised by `requestOf`. Safe. -/
  | accessWidth
  /-- R108: PINSET of a pin the port does not have. Raised by `pinsetOp`. Safe. -/
  | absentPin
  /-- R63: an instruction fetch from a claimed address. Raised by `requestOf`. Safe. -/
  | fetchFromIO
  /-- R344: a transaction before the lifecycle admits it. Raised by `admission`. Safe. -/
  | notReady
  /-- R344: INIT while Initialized or Ready. Raised by `admission`. Safe. -/
  | alreadyInitialized
  /-- R344, R346: any transaction while Failed. Raised by `admission`. Safe. -/
  | initFailed
  /-- MODEL's own: a step with no input at the boundary (log entry 3). Raised by `step`. Safe. -/
  | noInput
  /-- MODEL's own: a hook outside the block subscribes a hook that is on the list or unsubscribes one that is not, which
  "is not described by the source" (R129, N23; log entry 7). Raised by `act`. Safe. -/
  | undescribedSubscription
  /-- MODEL's own: a hook outside the block changes the subscriber list of a bus that is not delivering, where "Subscriber
  lists change only at initialization and destruction" (R35; log entry 7). Raised by `act`. Safe. -/
  | listChangeOutsideDelivery
  /-- An instruction without a meaning. No arm of `exec` answers it. Safe. -/
  | notModelled (mnemonic : String)
  deriving DecidableEq, Repr, Inhabited

/-- What a transaction comes to: the next state, a fault or a refusal. -/
abbrev Res := Host.Outcome State Fault Refusal

/-- The code of a fault in R320's table; the hang has none. -/
def Fault.code : Fault → Option Nat
  | .subscriberListModified _ _ => some 1
  | .reentrantRaise _ _ => some 2
  | .acChannelIndex _ _ _ => some 3
  | .acInputUndefined _ _ => some 4
  | .hang => none

/-- The code of a refusal in R321's table; the model's own have none. -/
def Refusal.code : Refusal → Option Nat
  | .reservedEncoding => some 16
  | .unclaimed => some 17
  | .accessWidth => some 18
  | .absentPin => some 19
  | .fetchFromIO => some 20
  | .notReady => some 21
  | .alreadyInitialized => some 22
  | .initFailed => some 23
  | _ => none

/-- The PORT registers after RESET (R48). -/
def PortRegs.reset : PortRegs where
  dir := 0
  out := 0
  inp := 0
  intflags := 0
  pinctrl := Vector.replicate 8 0

/-- The comparator after INIT and RESET with nothing delivered yet (R48, R42). -/
def AcState.reset : AcState where
  ctrla := 0
  muxctrla := 0
  intctrl := 0
  cmp := false
  raw := false
  out := false
  ref := none
  chan := []
  suspended := false

/-- The state after INIT and RESET of a block built with configuration `c` (R48), awake, nothing delivered yet, an empty
output trace and nothing at the boundary. -/
def State.resetWith (c : Config) : State where
  cfg := c
  port := PortRegs.reset
  pins := Vector.ofFn fun i => if c.hasPin i then some PinState.floating else none
  subs := c.subscriptions
  delivering := []
  portReq := false
  ac := AcState.reset
  acReq := false
  sleep := none
  claims := c.claimTable
  init := .ready
  trace := []
  env := []
  inbox := []

/-- The machine right after reset (R48), with the configuration of log entry 1. -/
def State.reset : State := State.resetWith Config.conventional

end Sys2Proof.Machine
end

