-- ==== Sys2Proof/Machine/Operands.lean ====
section
/-! DEFINITION. Reading and writing one piece of state: bits of a byte (R10), register fields (R101 to R107), the
registers themselves, pins, subscriber lists and the values the comparator's sources have delivered. -/

namespace Sys2Proof.Machine

open Sys2Proof

/-! ## Bits -/

/-- `v[i]` (R10). -/
def bitAt (v : Byte) (i : PinIx) : Bool := v.getLsbD i.val

/-- `v` with bit `i` set to `b`. -/
def withBit (v : Byte) (i : PinIx) (b : Bool) : Byte :=
  if b then v ||| (1#8 <<< i.val) else v &&& ~~~(1#8 <<< i.val)

/-- The pin indices in the order "for i in 0..7 ascending" (R12). -/
def pinOrder : List PinIx := [0, 1, 2, 3, 4, 5, 6, 7]

/-! ## PORT registers and fields -/

/-- The named values of PINnCTRL.ISC (R102). -/
inductive SenseMode where
  | intDisable | bothEdges | rising | falling | inputDisable | level | reserved6 | reserved7
  deriving DecidableEq, Repr, Inhabited

/-- The sense mode of an ISC code (R102). -/
def senseModeOf (c : BitVec 3) : SenseMode :=
  match c.toNat with
  | 0 => .intDisable
  | 1 => .bothEdges
  | 2 => .rising
  | 3 => .falling
  | 4 => .inputDisable
  | 5 => .level
  | 6 => .reserved6
  | _ => .reserved7

/-- `m = v & PIN_MASK` (R170). -/
def State.maskPins (s : State) (v : Byte) : Byte := v &&& s.cfg.pinMask

/-- PINiCTRL (R27). -/
def State.pinctrl (s : State) (i : PinIx) : Byte := s.port.pinctrl[i]

/-- PINiCTRL.ISC, bits 2:0 (R101). -/
def State.isc (s : State) (i : PinIx) : SenseMode := senseModeOf ((s.pinctrl i).extractLsb' 0 3)

/-- PINiCTRL.PULLUPEN, bit 3 (R101). -/
def State.pullupen (s : State) (i : PinIx) : Bool := (s.pinctrl i).getLsbD 3

/-- `reg.DIR <- v`. -/
def State.setDir (s : State) (v : Byte) : State := { s with port := { s.port with dir := v } }

/-- `reg.OUT <- v`. -/
def State.setOut (s : State) (v : Byte) : State := { s with port := { s.port with out := v } }

/-- `reg.IN <- v`. -/
def State.setIn (s : State) (v : Byte) : State := { s with port := { s.port with inp := v } }

/-- `reg.INTFLAGS <- v`. -/
def State.setIntflags (s : State) (v : Byte) : State := { s with port := { s.port with intflags := v } }

/-- `reg.PINiCTRL <- v`. -/
def State.setPinctrl (s : State) (i : PinIx) (v : Byte) : State :=
  { s with port := { s.port with pinctrl := s.port.pinctrl.set i v } }

/-! ## Pins and subscriber lists -/

/-- `pins(i)` (R20). -/
def State.pin (s : State) (i : PinIx) : Option PinState := s.pins[i]

/-- `pins(i) <- some st`. -/
def State.setPin (s : State) (i : PinIx) (st : PinState) : State := { s with pins := s.pins.set i (some st) }

/-- `bus.list` (R128). -/
def State.subscribers (s : State) (bus : BusId) : List Subscriber :=
  match bus with
  | .pin i => s.subs.pin[i]
  | .portValue => s.subs.portValue
  | .acOut => s.subs.acOut

/-- `bus.list <- l`. -/
def State.setSubscribers (s : State) (bus : BusId) (l : List Subscriber) : State :=
  match bus with
  | .pin i => { s with subs := { s.subs with pin := s.subs.pin.set i l } }
  | .portValue => { s with subs := { s.subs with portValue := l } }
  | .acOut => { s with subs := { s.subs with acOut := l } }

/-! ## Comparator registers and fields -/

/-- The named values of CTRLA.INTMODE (R106). -/
inductive IntMode where
  | bothEdge | reserved | negEdge | posEdge
  deriving DecidableEq, Repr, Inhabited

/-- The interrupt mode of an INTMODE code (R106). -/
def intModeOf (c : BitVec 2) : IntMode :=
  match c.toNat with
  | 0 => .bothEdge
  | 1 => .reserved
  | 2 => .negEdge
  | _ => .posEdge

/-- CTRLA.ENABLE, bit 0 (R104). -/
def State.acEnable (s : State) : Bool := s.ac.ctrla.getLsbD 0

/-- CTRLA.HYSMODE, bits 2:1 (R104). -/
def State.acHysmode (s : State) : BitVec 2 := s.ac.ctrla.extractLsb' 1 2

/-- CTRLA.INTMODE, bits 5:4 (R104). -/
def State.acIntmode (s : State) : IntMode := intModeOf (s.ac.ctrla.extractLsb' 4 2)

/-- CTRLA.RUNSTDBY, bit 7 (R104). -/
def State.acRunstdby (s : State) : Bool := s.ac.ctrla.getLsbD 7

/-- The selected index of a multiplexer: MUXCTRLA.MUXPOS, bits 4:3, or MUXCTRLA.MUXNEG, bits 1:0 (R107). -/
def State.acMux (s : State) (m : Mux) : Nat :=
  match m with
  | .pos => (s.ac.muxctrla.extractLsb' 3 2).toNat
  | .neg => (s.ac.muxctrla.extractLsb' 0 2).toNat

/-- MUXCTRLA.INVERT, bit 7 (R107). -/
def State.acInvert (s : State) : Bool := s.ac.muxctrla.getLsbD 7

/-- INTCTRL.CMP, bit 0 (R107). -/
def State.acIntEnable (s : State) : Bool := s.ac.intctrl.getLsbD 0

/-- AC.STATUS: CMP at bit 0, STATE at bit 4 (R40, R248). -/
def State.acStatus (s : State) : Byte :=
  (if s.ac.cmp then 0x01#8 else 0#8) ||| (if s.ac.out then 0x10#8 else 0#8)

/-- The channel a multiplexer selects, if its index is in the table (R241). -/
def State.acSelected (s : State) (m : Mux) : Option ChanSource := (s.cfg.channels m)[s.acMux m]?

/-- `CTRLA <- v`. -/
def State.setCtrla (s : State) (v : Byte) : State := { s with ac := { s.ac with ctrla := v } }

/-- `MUXCTRLA <- v`. -/
def State.setMuxctrla (s : State) (v : Byte) : State := { s with ac := { s.ac with muxctrla := v } }

/-- `INTCTRL <- v`. -/
def State.setIntctrl (s : State) (v : Byte) : State := { s with ac := { s.ac with intctrl := v } }

/-- `STATUS.CMP <- b`. -/
def State.setCmp (s : State) (b : Bool) : State := { s with ac := { s.ac with cmp := b } }

/-- `ac.raw <- b`. -/
def State.setRaw (s : State) (b : Bool) : State := { s with ac := { s.ac with raw := b } }

/-- `ac.out <- b`. -/
def State.setAcOut (s : State) (b : Bool) : State := { s with ac := { s.ac with out := b } }

/-- `ac.ref <- some u`. -/
def State.setRef (s : State) (u : Volt) : State := { s with ac := { s.ac with ref := some u } }

/-- `ac.suspended <- b`. -/
def State.setSuspended (s : State) (b : Bool) : State := { s with ac := { s.ac with suspended := b } }

/-! ## `ac.chan`: a sparse map in one canonical form, keys strictly rising (R42) -/

/-- The value of a source, `none` until its first delivery. -/
def chanGet (l : List (Nat × Volt)) (k : Nat) : Option Volt := (l.find? fun e => e.1 == k).map Prod.snd

/-- The map with the value of `k` set to `u`. -/
def chanSet (k : Nat) (u : Volt) : List (Nat × Volt) → List (Nat × Volt)
  | [] => [(k, u)]
  | e :: l => if k < e.1 then (k, u) :: e :: l else if k = e.1 then (k, u) :: l else e :: chanSet k u l

/-- The canonical form: source numbers strictly rise, so that equal maps are equal lists. -/
def chanWf (l : List (Nat × Volt)) : Bool := decide (l.Pairwise fun a b => a.1 < b.1)

/-- `ac.chan(k)` (R42). -/
def State.chanValue (s : State) (k : SourceId) : Option Volt := chanGet s.ac.chan k.toNat

/-- `ac.chan(k) <- some u`. -/
def State.setChan (s : State) (k : SourceId) (u : Volt) : State :=
  { s with ac := { s.ac with chan := chanSet k.toNat u s.ac.chan } }

end Sys2Proof.Machine
end

