-- ==== Sys2Proof/Machine/Flags.lean ====
section
/-! DEFINITION. Every flag and condition computation of the spec: logic levels and sensing (R221, R224), the driven state
(R190), write-1-to-clear (R180), the comparison with hysteresis (R251) and the qualifying transition (R258). -/

namespace Sys2Proof.Machine

open Sys2Proof

/-- The logic level of a pin state: "High ⇒ 1, everything else treated as 0 for sensing purposes" (R221). -/
def pinLevel (st : PinState) : Bool := st == .high

/-- `sense(isc, old, lvl)` (R224); the modes without an interrupt never hold (R102, R222). -/
def senseHolds (mode : SenseMode) (old lvl : Bool) : Bool :=
  match mode with
  | .bothEdges => lvl != old
  | .rising => !old && lvl
  | .falling => old && !lvl
  | .level => !lvl
  | .intDisable | .inputDisable | .reserved6 | .reserved7 => false

/-- `drivenState(i)` (R190). -/
def State.drivenState (s : State) (i : PinIx) : PinState :=
  if bitAt s.port.dir i then (if bitAt s.port.out i then .high else .low)
  else if s.pullupen i then .pullUp else .floating

/-- Write-1-to-clear: the bits of `m` cleared in `v` (R180). -/
def clearOnes (v m : Byte) : Byte := v &&& ~~~m

/-- The hysteresis width `h` (R250). -/
def State.hysteresisWidth (s : State) : Volt := s.cfg.acHys s.acHysmode

/-- The comparison with hysteresis: the next `ac.raw` from the last one, `d = vp - vn` and the width `h` (R251), the two
conditional assignments in their order. -/
def hysteresisStep (raw : Bool) (d h : Volt) : Bool :=
  let up := if !raw && decide (h / 2 < d) then true else raw
  if up && decide (d < -(h / 2)) then false else up

/-- `qualifies(INTMODE, old, new)`, asked when the output changed (R258). -/
def qualifies (mode : IntMode) (old new : Bool) : Bool :=
  match mode with
  | .bothEdge => true
  | .reserved => false
  | .negEdge => old && !new
  | .posEdge => !old && new

/-- `ac.suspended` as R43 derives it from `sleep` and CTRLA.RUNSTDBY. -/
def State.suspendedNow (s : State) : Bool :=
  match s.sleep with
  | none => false
  | some m => s.cfg.suspends m s.acRunstdby

/-- The port's inputs sense: always while awake and in an ungated port, "the hook runs, IN updates and flags set in every
sleep mode (`PORT_SLEEP_GATED = false`)" (R230); asleep in a gated port, a free value (I11; log entry 13). It gates
the pin-change hook alone: the level checks of register writes run alike (DESIGN CHOICE, log entry 13). -/
def State.inputsSense (s : State) : Bool :=
  match s.sleep with
  | none => true
  | some m => !s.cfg.portSleepGated || s.cfg.gatedInputsSense m

/-- The port's outputs follow its registers: always while awake and in an ungated port (R230, R43); asleep in a gated
port, a free value (I11; log entry 13). -/
def State.outputsDrive (s : State) : Bool :=
  match s.sleep with
  | none => true
  | some m => !s.cfg.portSleepGated || !s.cfg.gatedOutputsFreeze m

/-- The comparator is active: `CTRLA.ENABLE = 1 and not ac.suspended` (R243). -/
def State.acActive (s : State) : Bool := s.acEnable && !s.ac.suspended

/-- `STATUS.CMP = 1 and INTCTRL.CMP = 1`, what `acReq` must be (R262). -/
def State.acReqWanted (s : State) : Bool := s.ac.cmp && s.acIntEnable

end Sys2Proof.Machine
end

