-- ==== Sys2Proof/Machine/Ops.lean ====
section
/-! DEFINITION. The shared operations: the output trace, the two request lines, and the signal bus with the hooks that
hang on it. The block takes no CPU exception (R311, R313): what other hardware would call taking one is `raisePort`,
`cancelPort` and `updateAcReq` on a request line. -/

namespace Sys2Proof.Machine

open Sys2Proof

/-! ## Sequencing -/

/-- Go on from a next state; a fault or a refusal ends the transaction (R310, R323). -/
def andThen (r : Res) (k : State → Res) : Res :=
  match r with
  | .next s => k s
  | .fault f => .fault f
  | .refused q => .refused q

/-! ## The output trace (R49) -/

/-- `emit(event)` (R12). -/
def State.emit (s : State) (e : Event) : State := { s with trace := s.trace ++ [e] }

/-! ## The request lines (R300 to R303) -/

/-- `raise(PORT_VECTOR)` (R301). -/
def State.raisePort (s : State) : State := State.emit { s with portReq := true } (.raise s.cfg.portVector)

/-- `cancel(PORT_VECTOR)` (R302). -/
def State.cancelPort (s : State) : State := State.emit { s with portReq := false } (.cancel s.cfg.portVector)

/-- `updateAcReq()` (R262). -/
def State.updateAcReq (s : State) : State :=
  if s.acReqWanted && !s.acReq then State.emit { s with acReq := true } (.raise s.cfg.acVector)
  else if !s.acReqWanted && s.acReq then State.emit { s with acReq := false } (.cancel s.cfg.acVector)
  else s

/-! ## The signal bus (R128 to R135) -/

/-- How one action of a hook outside the block is performed: the nested transactions of R80, whatever level of nesting
they run at (Nest.lean). -/
abbrev Handler := Action → State → Res

/-- A hook outside the block does one thing after another, each run to completion (R131). -/
def runActions (h : Handler) : List Action → State → Res
  | [], s => .next s
  | a :: l, s => andThen (h a s) (runActions h l)

/-- Call a hook outside the block: `Signal(bus, id, payload, tag)` goes to the trace, "followed by whatever transactions
it issues" (R130). -/
def callOutside (h : Handler) (bus : BusId) (id : SignalId) (payload : Payload) (tag : Int) (s : State) : Res :=
  let t := s.emit (.signal bus id payload tag)
  match t.env with
  | [] => .next t
  | r :: rest => runActions h r { t with env := rest }

/-- The loop of `signal_raise` (R130): call each entry of the list `snap` the raise began with, and after each compare
the bus's list with it (R132). -/
def deliver (call : Subscriber → State → Res) (bus : BusId) (snap : List Subscriber) :
    List Subscriber → State → Res
  | [], s => .next s
  | x :: l, s =>
    andThen (call x s) fun t =>
      if t.subscribers bus = snap then deliver call bus snap l t else .fault (.subscriberListModified bus t)

/-- `signal_raise(bus, id, payload)` (R130), the hooks called by `call`. -/
def signalRaise (call : Subscriber → State → Res) (bus : BusId) (s : State) : Res :=
  if bus ∈ s.delivering then .fault (.reentrantRaise bus s)
  else
    andThen (deliver call bus (s.subscribers bus) (s.subscribers bus) { s with delivering := bus :: s.delivering })
      fun t => .next { t with delivering := t.delivering.erase bus }

/-- A raise on one of the two buses that only hooks outside the block subscribe to: the port's output-value signal and
the comparator output (R223, R256). -/
def raiseOutside (h : Handler) (bus : BusId) (id : SignalId) (payload : Payload) (s : State) : Res :=
  signalRaise
    (fun x t =>
      match x with
      | .port _ => .next t
      | .ext _ tag => callOutside h bus id payload tag t)
    bus s

/-! ## Pins (R120 to R127) and the port's pin-change hook (R220 to R228) -/

/-- "If the evaluated condition holds and the corresponding INTFLAGS bit is not already set, set it and raise the
interrupt" (R224, R228). -/
def State.flagPin (s : State) (i : PinIx) (cond : Bool) : State :=
  if cond && !bitAt s.port.intflags i then (s.setIntflags (withBit s.port.intflags i true)).raisePort else s

/-- `portHook(DigitalStateChanged, st, i)` (R222). Where a gated port's inputs do not sense, a change other than to Shorted
leaves IN and INTFLAGS and raises no value signal, and one to Shorted is still forwarded (R230). Whether they sense is looked
at once, on entry: a nested SLEEP or WAKE that a subscriber of the value signal issues does not change what this call of the
hook goes on to do, so the flag is still set and raised. DESIGN CHOICE, log entry 13 (I11 leaves both open). -/
def portHook (h : Handler) (st : PinState) (i : PinIx) (s : State) : Res :=
  if st = .shorted then .next (s.emit (.pinShorted ⟨s.cfg.portLetter, i⟩))
  else if s.inputsSense = false then .next s
  else
    let lvl := pinLevel st
    let old := bitAt s.port.inp i
    let recorded :=
      if lvl != old then
        let t := s.setIn (withBit s.port.inp i lvl)
        raiseOutside h .portValue .portValue (.portByte t.port.inp) t
      else .next s
    andThen recorded fun t => .next (t.flagPin i (senseHolds (t.isc i) old lvl))

/-- Call one subscriber of pin `i` with the new state `st` (R126, R130). -/
def callPinHook (h : Handler) (i : PinIx) (st : PinState) (x : Subscriber) (s : State) : Res :=
  match x with
  | .port tag => portHook h st tag s
  | .ext _ tag => callOutside h (.pin i) .digitalStateChanged (.pinState st) tag s

/-- `drive(i, st)`, "the only operation that writes a pin state" (R124). -/
def drive (h : Handler) (i : PinIx) (st : PinState) (s : State) : Res :=
  if s.pin i = some st then .next s
  else signalRaise (callPinHook h i st) (.pin i) (s.setPin i st)

/-- The loop of `redriveAll()` over the pins `l`: each existing pin is driven to its driven state, the registers read
"as they stand now" (R191, R194). -/
def redriveList (h : Handler) : List PinIx → State → Res
  | [], s => .next s
  | i :: l, s =>
    andThen (if s.cfg.hasPin i then drive h i (s.drivenState i) s else .next s) (redriveList h l)

/-- `redriveAll()` (R191). Where a gated port's outputs are frozen no pin is driven (R230; log entry 13). -/
def redriveAll (h : Handler) (s : State) : Res := if s.outputsDrive then redriveList h pinOrder s else .next s

end Sys2Proof.Machine
end

