-- ==== Sys2Proof/Machine/AcOps.lean ====
section
/-! DEFINITION. The analog comparator (R240 to R264): its evaluation, what a write to each of its registers does, the
sleep rules, and the events that reach it. -/

namespace Sys2Proof.Machine

open Sys2Proof

/-! ## Evaluation -/

/-- `inputValue(list, idx)` for the channel multiplexer `m` selects (R242), the value handed to `k`; a fault keeps the
state. -/
def inputValue (m : Mux) (s : State) (k : Volt → Res) : Res :=
  match s.acSelected m with
  | none => .fault (.acChannelIndex m (s.acMux m) s)
  | some (.src n) =>
    match s.chanValue n with
    | none => .fault (.acInputUndefined (.src n) s)
    | some u => k u
  | some .ref =>
    match s.ac.ref with
    | none => .fault (.acInputUndefined .ref s)
    | some u => k u

/-- The part of `acEval()` that publishes a new output (R255, R256, R258): the output signal is raised before INTMODE is
read. -/
def publishOutput (h : Handler) (new : Bool) (s : State) : Res :=
  let old := s.ac.out
  if new = old then .next s
  else
    andThen (raiseOutside h .acOut .acOutput (.acBit new) (s.setAcOut new)) fun t =>
      .next (if qualifies t.acIntmode old new then (t.setCmp true).updateAcReq else t)

/-- `acEval()` (R255). -/
def acEval (h : Handler) (s : State) : Res :=
  if s.acActive then
    inputValue .pos s fun vp =>
      inputValue .neg s fun vn =>
        let t := s.setRaw (hysteresisStep s.ac.raw (vp - vn) s.hysteresisWidth)
        publishOutput h (t.ac.raw ^^ t.acInvert) t
  else .next s

/-- `recomputeSuspended()` (R260): on a change from true to false the comparator is evaluated. -/
def recomputeSuspended (h : Handler) (s : State) : Res :=
  let t := s.setSuspended s.suspendedNow
  if s.ac.suspended && !t.ac.suspended then acEval h t else .next t

/-! ## Register writes (R244 to R249) -/

/-- WR CTRLA (R244). -/
def writeCtrla (h : Handler) (v : Byte) (s : State) : Res :=
  andThen (recomputeSuspended h (s.setCtrla (v &&& ctrlaMask))) (acEval h)

/-- WR MUXCTRLA (R245). -/
def writeMuxctrla (h : Handler) (v : Byte) (s : State) : Res := acEval h (s.setMuxctrla (v &&& muxctrlaMask))

/-- WR INTCTRL (R246). -/
def writeIntctrl (v : Byte) (s : State) : Res := .next (s.setIntctrl (v &&& intctrlMask)).updateAcReq

/-- WR STATUS: write-1-to-clear of CMP (R247). -/
def writeStatus (v : Byte) (s : State) : Res := .next (if v.getLsbD 0 then s.setCmp false else s).updateAcReq

/-- WR to a reserved AC offset: nothing (R249). -/
def writeAcReserved (_v : Byte) (s : State) : Res := .next s

/-- The AC write handler (R244 to R249). -/
def acWrite (h : Handler) (reg : AcReg) (v : Byte) (s : State) : Res :=
  match reg with
  | .ctrla => writeCtrla h v s
  | .muxctrla => writeMuxctrla h v s
  | .intctrl => writeIntctrl v s
  | .status => writeStatus v s
  | .reserved => writeAcReserved v s

/-- The value of an AC read (R248). -/
def State.acValue (s : State) (reg : AcReg) : Byte :=
  match reg with
  | .ctrla => s.ac.ctrla
  | .muxctrla => s.ac.muxctrla
  | .intctrl => s.ac.intctrl
  | .status => s.acStatus
  | .reserved => 0

/-! ## Events -/

/-- SLEEP m (R111, R260). It leaves the PORT alone. In a gated port, where R111's "The PORT is unaffected by both" is not
said, it drives no pin, samples none into IN and senses none, whichever modes it leaves and enters: DESIGN CHOICE, log
entry 13 (I11 leaves it open). -/
def sleepOp (h : Handler) (m : SleepMode) (s : State) : Res :=
  if m ∈ s.cfg.sleepModes then recomputeSuspended h { s with sleep := some m } else .refused .reservedEncoding

/-- WAKE (R111, R261). It leaves the PORT alone. In a gated port, where R111's "The PORT is unaffected by both" is not said,
it drives no pin, and a pin that changed while the inputs did not sense is not sampled into IN nor sensed: IN and INTFLAGS
stay as they were until the pin's next change. DESIGN CHOICE, log entry 13 (I11 leaves it open). -/
def wakeOp (h : Handler) (s : State) : Res :=
  let t := { s with sleep := none }
  if t.ac.suspended then acEval h (t.setSuspended false) else .next t

/-- A multiplexer selects the channel `c`. -/
def State.selects (s : State) (c : ChanSource) : Bool :=
  s.acSelected .pos == some c || s.acSelected .neg == some c

/-- ACHAN k, u (R112). -/
def achanOp (h : Handler) (k : SourceId) (u : Volt) (s : State) : Res :=
  let t := s.setChan k u
  if t.selects (.src k) then acEval h t else .next t

/-- AREF u (R113). -/
def arefOp (h : Handler) (u : Volt) (s : State) : Res :=
  let t := s.setRef u
  if t.selects .ref then acEval h t else .next t

/-- GET_AC_OUT (R114, R257). -/
def getAcOutOp (s : State) : Res := .next (s.emit (.readData (if s.ac.out then 1 else 0)))

/-- GET_AC_REF (R114, R257). -/
def getAcRefOp (s : State) : Res :=
  match s.ac.ref with
  | none => .fault (.acInputUndefined .ref s)
  | some u => .next (s.emit (.readVolt u))

/-- GET_PORT_SIGNAL: the handle of the port's output-value signal (R114, R36). -/
def getPortSignalOp (s : State) : Res := .next (s.emit (.readHandle .portValue))

/-! ## Reset (R263) -/

/-- The comparator's registers and hysteresis state cleared and `ac.suspended` recomputed, `ac.out` as it was. -/
def State.clearAc (s : State) : State := { s with
  ac := { AcState.reset with
    out := s.ac.out, ref := s.ac.ref, chan := s.ac.chan, suspended := (s.setCtrla 0).suspendedNow } }

/-- `acReset()` (R263). The registers are cleared and `ac.suspended` recomputed before the output signal is raised. -/
def acReset (h : Handler) (s : State) : Res :=
  let t := s.clearAc
  andThen (if t.ac.out then raiseOutside h .acOut .acOutput (.acBit false) (t.setAcOut false) else .next t)
    fun u => .next u.updateAcReq

end Sys2Proof.Machine
end

