-- ==== Sys2Proof/Machine/PortOps.lean ====
section
/-! DEFINITION. What a write to each PORT register does (R170 to R184) and what each read gives (R185, R200), shared by
the PORT and VPORT handlers. -/

namespace Sys2Proof.Machine

open Sys2Proof

/-! ## The DIR and OUT families -/

/-- WR DIR (R171). -/
def writeDir (h : Handler) (v : Byte) (s : State) : Res := redriveAll h (s.setDir (s.maskPins v))

/-- WR DIRSET (R172). -/
def writeDirset (h : Handler) (v : Byte) (s : State) : Res := redriveAll h (s.setDir (s.port.dir ||| s.maskPins v))

/-- WR DIRCLR (R173). -/
def writeDirclr (h : Handler) (v : Byte) (s : State) : Res := redriveAll h (s.setDir (s.port.dir &&& ~~~s.maskPins v))

/-- WR DIRTGL (R174). -/
def writeDirtgl (h : Handler) (v : Byte) (s : State) : Res := redriveAll h (s.setDir (s.port.dir ^^^ s.maskPins v))

/-- WR OUT (R175). -/
def writeOut (h : Handler) (v : Byte) (s : State) : Res := redriveAll h (s.setOut (s.maskPins v))

/-- WR OUTSET (R176). -/
def writeOutset (h : Handler) (v : Byte) (s : State) : Res := redriveAll h (s.setOut (s.port.out ||| s.maskPins v))

/-- WR OUTCLR (R177). -/
def writeOutclr (h : Handler) (v : Byte) (s : State) : Res := redriveAll h (s.setOut (s.port.out &&& ~~~s.maskPins v))

/-- WR OUTTGL (R178). -/
def writeOuttgl (h : Handler) (v : Byte) (s : State) : Res := redriveAll h (s.setOut (s.port.out ^^^ s.maskPins v))

/-! ## IN, INTFLAGS, PINnCTRL -/

/-- WR IN: nothing (R179). -/
def writeIn (_v : Byte) (s : State) : Res := .next s

/-- `levelCheck(n)` (R183). It reads the stored IN bit, and so runs alike in a sleep mode in which a gated port's inputs do
not sense: DESIGN CHOICE, log entry 13 (R8, I11 leave it open). -/
def State.levelCheck (s : State) (n : PinIx) : State :=
  if s.isc n = .level ∧ bitAt s.port.inp n = false then
    if bitAt s.port.intflags n then s else (s.setIntflags (withBit s.port.intflags n true)).raisePort
  else if s.port.intflags = 0 then s.cancelPort
  else s

/-- `levelCheck(i)` for the pins `l` with `m[i] = 1`, in order (R180). -/
def levelCheckList (m : Byte) : List PinIx → State → State
  | [], s => s
  | i :: l, s => levelCheckList m l (if bitAt m i then s.levelCheck i else s)

/-- WR INTFLAGS (R180). The cancel, and the level check of `LEVEL_REASSERT_ON_CLEAR`, with its flag and Raise, happen in an
asleep gated port too, whether or not its inputs sense: DESIGN CHOICE, log entry 13 (R8, I11 leave it open). -/
def writeIntflags (v : Byte) (s : State) : Res :=
  let m := s.maskPins v
  let cleared := s.setIntflags (clearOnes s.port.intflags m)
  let cancelled := if cleared.port.intflags = 0 then cleared.cancelPort else cleared
  .next (if s.cfg.levelReassertOnClear then levelCheckList m pinOrder cancelled else cancelled)

/-- WR PINnCTRL (R181, R183, R184). In an asleep gated port the level check still runs and can set the flag and raise,
whether or not the inputs sense or the outputs are frozen; where the outputs are frozen the pin is not driven (R230). Both
are DESIGN CHOICE, log entry 13 (R8, I11 leave them open). -/
def writePinctrl (h : Handler) (n : PinIx) (v : Byte) (s : State) : Res :=
  if s.cfg.hasPin n then
    let t := (s.setPinctrl n v).levelCheck n
    if t.outputsDrive then drive h n (t.drivenState n) t else .next t
  else .next s

/-- WR to a reserved offset: nothing (R182, R158). -/
def writeReserved (_v : Byte) (s : State) : Res := .next s

/-! ## The handlers (R157) -/

/-- The PORT write handler: the raw byte, by register identity (R157). -/
def portWrite (h : Handler) (reg : PortReg) (v : Byte) (s : State) : Res :=
  match reg with
  | .dir => writeDir h v s
  | .dirset => writeDirset h v s
  | .dirclr => writeDirclr h v s
  | .dirtgl => writeDirtgl h v s
  | .out => writeOut h v s
  | .outset => writeOutset h v s
  | .outclr => writeOutclr h v s
  | .outtgl => writeOuttgl h v s
  | .inp => writeIn v s
  | .intflags => writeIntflags v s
  | .pinctrl n => writePinctrl h n v s
  | .reserved => writeReserved v s

/-- The write handler on a VPORT offset: "identical semantics ... no separate code path" (R157, R201 to R204). -/
def vportWrite (h : Handler) (reg : VportReg) (v : Byte) (s : State) : Res :=
  match reg with
  | .dir => writeDir h v s
  | .out => writeOut h v s
  | .inp => writeIn v s
  | .intflags => writeIntflags v s
  | .reserved => writeReserved v s

/-- The value of a PORT read (R185): the SET/CLR/TGL and reserved offsets read 0. -/
def State.portValue (s : State) (reg : PortReg) : Byte :=
  match reg with
  | .dir => s.port.dir
  | .dirset | .dirclr | .dirtgl => 0
  | .out => s.port.out
  | .outset | .outclr | .outtgl => 0
  | .inp => s.port.inp
  | .intflags => s.port.intflags
  | .pinctrl n => s.pinctrl n
  | .reserved => 0

/-- The value of a VPORT read: the canonical register at the time of the read (R200). -/
def State.vportValue (s : State) (reg : VportReg) : Byte :=
  match reg with
  | .dir => s.port.dir
  | .out => s.port.out
  | .inp => s.port.inp
  | .intflags => s.port.intflags
  | .reserved => 0

/-! ## PINSET (R108) -/

/-- PINSET n, st: the environment drives pin n (R108). -/
def pinsetOp (h : Handler) (n : PinIx) (st : PinState) (s : State) : Res :=
  if s.cfg.hasPin n then drive h n st s else .refused .absentPin

end Sys2Proof.Machine
end

