-- ==== Sys2Proof/Machine/Lifecycle.lean ====
section
/-! DEFINITION. RESET (R340), INIT (R343) and the admission of a transaction by the lifecycle (R344). -/

namespace Sys2Proof.Machine

open Sys2Proof

/-- The PORT registers cleared and its request cancelled, the first two lines of `reset()` (R340). -/
def State.clearPort (s : State) : State := State.cancelPort { s with port := PortRegs.reset }

/-- RESET: `reset()` (R340). It drives the pins of a gated port too (log entry 13). -/
def resetOp (h : Handler) (s : State) : Res :=
  andThen (redriveList h pinOrder s.clearPort) fun t =>
    andThen (acReset h t) fun u => .next { u with init := .ready }

/-- INIT: `init()` (R343). A failed initialization "completes and leaves `init = Failed`" (R344); which claims and
subscriptions it made "is not said" (R346): free values (log entry 8). -/
def initOp (s : State) : Res :=
  if s.cfg.initOk then
    .next { s with claims := s.cfg.claimTable, subs := s.cfg.subscriptions, init := .initialized }
  else
    .next { s with claims := s.cfg.partialClaims, subs := s.cfg.partialSubs, init := .failed }

/-- `admit(t)` (R344): the refusal of the decoded transaction `q`, or `none` where it is performed. -/
def admission (status : InitStatus) (q : Request) : Option Refusal :=
  match status with
  | .failed => some .initFailed
  | .uninitialized => if q = .init then none else some .notReady
  | .initialized => if q = .init then some .alreadyInitialized else if q = .reset then none else some .notReady
  | .ready => if q = .init then some .alreadyInitialized else none

end Sys2Proof.Machine
end

