-- ==== Sys2Proof/Machine/Bus.lean ====
section
/-! DEFINITION. The register-virtualization dispatcher (R150 to R160), the decoder's verdict on an input (R91, R63, R66,
R72), and the performance of one decoded transaction. -/

namespace Sys2Proof.Machine

open Sys2Proof

/-- The value a unit gives for a read: its handler's where it intercepts, else the stored byte, which for this block is
the same register (R44, R152). -/
def State.readValue (s : State) (owner : Peripheral) (r : Region) (off : Nat) : Byte :=
  match owner, r with
  | .port, .port => s.portValue (s.cfg.portReg off)
  | .port, .vport => s.vportValue (vportReg off)
  | .ac, .ac => s.acValue (acReg off)
  | _, _ => 0

/-- A unit's write handler (R153); an offset it does not recognize is a no-op. -/
def writeHandler (h : Handler) (owner : Peripheral) (r : Region) (off : Nat) (v : Byte) (s : State) : Res :=
  match owner, r with
  | .port, .port => portWrite h (s.cfg.portReg off) v s
  | .port, .vport => vportWrite h (vportReg off) v s
  | .ac, .ac => acWrite h (acReg off) v s
  | _, _ => .next s

/-- The byte a bus read at `off` of region `r` gives, if the block claims that address (R152, R154). This is the model's
read of one byte. -/
def State.peek (s : State) (r : Region) (off : Nat) : Option Byte :=
  (claimAt s.claims (s.cfg.base r + off)).map fun c => s.readValue c.owner r off &&& c.mask

/-- `BusRead(region, off)` (R152). -/
def busRead (r : Region) (off : Nat) (s : State) : Res :=
  match s.peek r off with
  | none => .refused .unclaimed
  | some b => .next (s.emit (.readData b))

/-- `BusWrite(region, off, v)` (R153). -/
def busWrite (h : Handler) (r : Region) (off : Nat) (v : Byte) (s : State) : Res :=
  match claimAt s.claims (s.cfg.base r + off) with
  | none => .refused .unclaimed
  | some c => writeHandler h c.owner r off v s

/-- An admitted transaction performed (R344 "perform t"). -/
def performAdmitted (h : Handler) (q : Request) (s : State) : Res :=
  match q with
  | .read r off => busRead r off s
  | .write r off v => busWrite h r off v s
  | .pinset n st => pinsetOp h n st s
  | .reset => resetOp h s
  | .init => initOp s
  | .sleep m => sleepOp h m s
  | .wake => wakeOp h s
  | .achan k u => achanOp h k u s
  | .aref u => arefOp h u s
  | .getAcOut => getAcOutOp s
  | .getAcRef => getAcRefOp s
  | .getPortSignal => getPortSignalOp s

/-- R91's check of a bus transaction's region and offset (R99). -/
def Request.claimed (c : Config) : Request → Bool
  | .read r off => c.claimsOffset r off
  | .write r off _ => c.claimsOffset r off
  | _ => true

/-- One transaction: the decoder's verdict first, then admission, then the performance (R344). -/
def transactWith (h : Handler) (q : Request) (s : State) : Res :=
  if Request.claimed s.cfg q then
    match admission s.init q with
    | some r => .refused r
    | none => performAdmitted h q s
  else .refused .unclaimed

/-- The refusal of the decoder as a refusal of the machine (R98, R99). -/
def refusalOf : DecodeRefusal → Refusal
  | .reservedEncoding => .reservedEncoding
  | .unclaimed => .unclaimed

/-- The decoder's verdict on an input: a TW20 word (R91); a bus access by absolute address, refused as AccessWidth unless
it is one byte wide (R66) and as Unclaimed outside the regions (R72); a fetch, refused as FetchFromIO (R63). -/
def requestOf (c : Config) (x : Input) : Except Refusal Request :=
  match x with
  | .word w u =>
    match requestOfWord c w u with
    | .ok q => .ok q
    | .error r => .error (refusalOf r)
  | .load a width =>
    match c.locate a with
    | none => .error .unclaimed
    | some (r, off) => if width = 1 then .ok (.read r off) else .error .accessWidth
  | .store a width v =>
    match c.locate a with
    | none => .error .unclaimed
    | some (r, off) => if width = 1 then .ok (.write r off v) else .error .accessWidth
  | .fetch a =>
    match c.locate a with
    | none => .error .unclaimed
    | some _ => .error .fetchFromIO

/-- An input decoded and performed. -/
def performInputWith (h : Handler) (x : Input) (s : State) : Res :=
  match requestOf s.cfg x with
  | .error r => .refused r
  | .ok q => transactWith h q s

end Sys2Proof.Machine
end

