-- ==== Sys2Proof/Machine/Nest.lean ====
section
/-! DEFINITION. Nesting (R80, R131): what a hook outside the block can do from inside a delivery, at every level of
nesting a run can reach. -/

namespace Sys2Proof.Machine

open Sys2Proof

/-- `subscribe(hook, tag)` on a bus: append the entry at the end (R128), whose hook may be any, the port's own included. A
hook can ask for it only of a bus that is delivering, and R132 then ends the run when the hook returns: "Subscriber lists
change only at initialization and destruction" (R35). On another bus it is refused, and so is a hook that is on the list
already, which the source does not describe (R129, N23; log entry 7). -/
def subscribeOp (bus : BusId) (entry : Subscriber) (s : State) : Res :=
  let l := s.subscribers bus
  if bus ∉ s.delivering then .refused .listChangeOutsideDelivery
  else if entry.hookId ∈ l.map Subscriber.hookId then .refused .undescribedSubscription
  else .next (s.setSubscribers bus (l ++ [entry]))

/-- `unsubscribe(hook)` on a bus: the hook's entry goes, the port's own too, and the others keep their order (R128). The same
bounds hold as for `subscribe`; a hook that is not on the list is refused (R35, N23; log entry 7). -/
def unsubscribeOp (bus : BusId) (hook : HookId) (s : State) : Res :=
  let l := s.subscribers bus
  if bus ∉ s.delivering then .refused .listChangeOutsideDelivery
  else if hook ∈ l.map Subscriber.hookId then .next (s.setSubscribers bus (l.filter fun x => x.hookId != hook))
  else .refused .undescribedSubscription

/-- One action of a hook outside the block, its own nested deliveries handled by `h`. -/
def act (h : Handler) (a : Action) (s : State) : Res :=
  match a with
  | .input x => performInputWith h x s
  | .subscribe bus entry => subscribeOp bus entry s
  | .unsubscribe bus hook => unsubscribeOp bus hook s
  | .spin => .fault .hang

/-- The handler with `n` levels of nesting left. -/
def handlerAt : Nat → Handler
  | 0 => fun _ _ => .fault .hang
  | n + 1 => act (handlerAt n)

/-- The levels of nesting a run can reach: a hook is called while its bus is delivering, a raise on a delivering bus
faults (R135), and there are ten buses, eight pins' and two more. -/
def nestDepth : Nat := 10

/-- The handler of a transaction that is not nested in another. -/
def topHandler : Handler := handlerAt nestDepth

/-- One transaction that is not nested in another. -/
def transact (q : Request) (s : State) : Res := transactWith topHandler q s

/-- One input that is not nested in another. -/
def performInput (x : Input) (s : State) : Res := performInputWith topHandler x s

end Sys2Proof.Machine
end

