-- ==== Sys2Proof/Machine/Ac.lean ====
section
/-! DEFINITION. The meanings of the bus reads and writes of the AC region. -/

namespace Sys2Proof.Machine

open Sys2Proof

/-- RD AC.CTRLA (0x80000, mask 0xFFF00): a bus read (R152), R248. -/
def execRdAcCtrla (s : State) : Res := transact (.read .ac 0x00) s

/-- RD AC.MUXCTRLA (0x80200, mask 0xFFF00): a bus read (R152), R248. -/
def execRdAcMuxctrla (s : State) : Res := transact (.read .ac 0x02) s

/-- RD AC.INTCTRL (0x80600, mask 0xFFF00): a bus read (R152), R248. -/
def execRdAcIntctrl (s : State) : Res := transact (.read .ac 0x06) s

/-- RD AC.STATUS (0x80700, mask 0xFFF00): a bus read (R152), R248. -/
def execRdAcStatus (s : State) : Res := transact (.read .ac 0x07) s

/-- RD AC+0x01 (reserved) (0x80100, mask 0xFFF00): a bus read of a claimed offset that names no register: 0 (R100, R248). -/
def execRdAcReserved01 (s : State) : Res := transact (.read .ac 0x01) s

/-- RD AC+0x03 (reserved) (0x80300, mask 0xFFF00): a bus read of a claimed offset that names no register: 0 (R100, R248). -/
def execRdAcReserved03 (s : State) : Res := transact (.read .ac 0x03) s

/-- RD AC+0x04..0x05 (reserved) (0x80400, mask 0xFFE00): a bus read of a claimed offset that names no register: 0 (R100, R248). -/
def execRdAcReserved04 (off : Byte) (s : State) : Res := transact (.read .ac off.toNat) s

/-- RD AC+0x08..0x0F (unclaimed) (0x80800, mask 0xFF800): refused as Unclaimed where the offset is outside the span (R99). -/
def execRdAcUnclaimed08 (off : Byte) (s : State) : Res := transact (.read .ac off.toNat) s

/-- RD AC+0x10..0x1F (unclaimed) (0x81000, mask 0xFF000): refused as Unclaimed where the offset is outside the span (R99). -/
def execRdAcUnclaimed10 (off : Byte) (s : State) : Res := transact (.read .ac off.toNat) s

/-- RD AC+0x20..0x3F (unclaimed) (0x82000, mask 0xFE000): refused as Unclaimed where the offset is outside the span (R99). -/
def execRdAcUnclaimed20 (off : Byte) (s : State) : Res := transact (.read .ac off.toNat) s

/-- RD AC+0x40..0x7F (unclaimed) (0x84000, mask 0xFC000): refused as Unclaimed where the offset is outside the span (R99). -/
def execRdAcUnclaimed40 (off : Byte) (s : State) : Res := transact (.read .ac off.toNat) s

/-- RD AC+0x80..0xFF (unclaimed) (0x88000, mask 0xF8000): refused as Unclaimed where the offset is outside the span (R99). -/
def execRdAcUnclaimed80 (off : Byte) (s : State) : Res := transact (.read .ac off.toNat) s

/-- WR AC.CTRLA (0xA0000, mask 0xFFF00): a bus write (R153), R244. -/
def execWrAcCtrla (v : Byte) (s : State) : Res := transact (.write .ac 0x00 v) s

/-- WR AC.MUXCTRLA (0xA0200, mask 0xFFF00): a bus write (R153), R245. -/
def execWrAcMuxctrla (v : Byte) (s : State) : Res := transact (.write .ac 0x02 v) s

/-- WR AC.INTCTRL (0xA0600, mask 0xFFF00): a bus write (R153), R246. -/
def execWrAcIntctrl (v : Byte) (s : State) : Res := transact (.write .ac 0x06 v) s

/-- WR AC.STATUS (0xA0700, mask 0xFFF00): a bus write (R153), R247. -/
def execWrAcStatus (v : Byte) (s : State) : Res := transact (.write .ac 0x07 v) s

/-- WR AC+0x01 (reserved) (0xA0100, mask 0xFFF00): a bus write to a claimed offset that names no register: nothing (R100, R249). -/
def execWrAcReserved01 (v : Byte) (s : State) : Res := transact (.write .ac 0x01 v) s

/-- WR AC+0x03 (reserved) (0xA0300, mask 0xFFF00): a bus write to a claimed offset that names no register: nothing (R100, R249). -/
def execWrAcReserved03 (v : Byte) (s : State) : Res := transact (.write .ac 0x03 v) s

/-- WR AC+0x04..0x05 (reserved) (0xA0400, mask 0xFFE00): a bus write to a claimed offset that names no register: nothing (R100, R249). -/
def execWrAcReserved04 (off : Byte) (v : Byte) (s : State) : Res := transact (.write .ac off.toNat v) s

/-- WR AC+0x08..0x0F (unclaimed) (0xA0800, mask 0xFF800): refused as Unclaimed where the offset is outside the span (R99). -/
def execWrAcUnclaimed08 (off : Byte) (v : Byte) (s : State) : Res := transact (.write .ac off.toNat v) s

/-- WR AC+0x10..0x1F (unclaimed) (0xA1000, mask 0xFF000): refused as Unclaimed where the offset is outside the span (R99). -/
def execWrAcUnclaimed10 (off : Byte) (v : Byte) (s : State) : Res := transact (.write .ac off.toNat v) s

/-- WR AC+0x20..0x3F (unclaimed) (0xA2000, mask 0xFE000): refused as Unclaimed where the offset is outside the span (R99). -/
def execWrAcUnclaimed20 (off : Byte) (v : Byte) (s : State) : Res := transact (.write .ac off.toNat v) s

/-- WR AC+0x40..0x7F (unclaimed) (0xA4000, mask 0xFC000): refused as Unclaimed where the offset is outside the span (R99). -/
def execWrAcUnclaimed40 (off : Byte) (v : Byte) (s : State) : Res := transact (.write .ac off.toNat v) s

/-- WR AC+0x80..0xFF (unclaimed) (0xA8000, mask 0xF8000): refused as Unclaimed where the offset is outside the span (R99). -/
def execWrAcUnclaimed80 (off : Byte) (v : Byte) (s : State) : Res := transact (.write .ac off.toNat v) s

end Sys2Proof.Machine
end

