-- ==== Sys2Proof/Machine/Events.lean ====
section
/-! DEFINITION. The meanings of the events (R97) and of the reserved encodings (R98). -/

namespace Sys2Proof.Machine

open Sys2Proof

/-- PINSET Low (0xC0000, mask 0xFFF07): an external drive of pin `n` (R108). -/
def execPinsetLow (n : PinIx) (s : State) : Res := transact (.pinset n .low) s

/-- PINSET High (0xC0001, mask 0xFFF07): an external drive of pin `n` (R108). -/
def execPinsetHigh (n : PinIx) (s : State) : Res := transact (.pinset n .high) s

/-- PINSET Floating (0xC0002, mask 0xFFF07): an external drive of pin `n` (R108). -/
def execPinsetFloating (n : PinIx) (s : State) : Res := transact (.pinset n .floating) s

/-- PINSET PullUp (0xC0003, mask 0xFFF07): an external drive of pin `n` (R108). -/
def execPinsetPullUp (n : PinIx) (s : State) : Res := transact (.pinset n .pullUp) s

/-- PINSET PullDown (0xC0004, mask 0xFFF07): an external drive of pin `n` (R108). -/
def execPinsetPullDown (n : PinIx) (s : State) : Res := transact (.pinset n .pullDown) s

/-- PINSET Analog (0xC0005, mask 0xFFF07): an external drive of pin `n` (R108). -/
def execPinsetAnalog (n : PinIx) (s : State) : Res := transact (.pinset n .analog) s

/-- PINSET Shorted (0xC0006, mask 0xFFF07): an external drive of pin `n` (R108). -/
def execPinsetShorted (n : PinIx) (s : State) : Res := transact (.pinset n .shorted) s

/-- PINSET state 7 (reserved) (0xC0007, mask 0xFFF07): a reserved encoding, refused (R98). -/
def execPinsetState7 (_d : Byte) (_s : State) : Res := .refused .reservedEncoding

/-- RESET (0xC0100, mask 0xFFF00): R109. -/
def execReset (s : State) : Res := transact .reset s

/-- INIT (0xC0200, mask 0xFFF00): R110. -/
def execInit (s : State) : Res := transact .init s

/-- SLEEP (0xC0300, mask 0xFFF00): R111. -/
def execSleep (m : SleepMode) (s : State) : Res := transact (.sleep m) s

/-- WAKE (0xC0400, mask 0xFFF00): R111. -/
def execWake (s : State) : Res := transact .wake s

/-- ACHAN (0xC0500, mask 0xFFF00): R112. -/
def execAchan (k : SourceId) (u : Volt) (s : State) : Res := transact (.achan k u) s

/-- AREF (0xC0600, mask 0xFFF00): R113. -/
def execAref (u : Volt) (s : State) : Res := transact (.aref u) s

/-- GET_AC_OUT (0xC0700, mask 0xFFF00): R114. -/
def execGetAcOut (s : State) : Res := transact .getAcOut s

/-- GET_AC_REF (0xC0800, mask 0xFFF00): R114. -/
def execGetAcRef (s : State) : Res := transact .getAcRef s

/-- GET_PORT_SIGNAL (0xC0900, mask 0xFFF00): R114. -/
def execGetPortSignal (s : State) : Res := transact .getPortSignal s

/-- EVENT 0x0A..0x0B (reserved) (0xC0A00, mask 0xFFE00): a reserved encoding, refused (R98). -/
def execEventReserved0A (_off : Byte) (_d : Byte) (_s : State) : Res := .refused .reservedEncoding

/-- EVENT 0x0C..0x0F (reserved) (0xC0C00, mask 0xFFC00): a reserved encoding, refused (R98). -/
def execEventReserved0C (_off : Byte) (_d : Byte) (_s : State) : Res := .refused .reservedEncoding

/-- EVENT 0x10..0x1F (reserved) (0xC1000, mask 0xFF000): a reserved encoding, refused (R98). -/
def execEventReserved10 (_off : Byte) (_d : Byte) (_s : State) : Res := .refused .reservedEncoding

/-- EVENT 0x20..0x3F (reserved) (0xC2000, mask 0xFE000): a reserved encoding, refused (R98). -/
def execEventReserved20 (_off : Byte) (_d : Byte) (_s : State) : Res := .refused .reservedEncoding

/-- EVENT 0x40..0x7F (reserved) (0xC4000, mask 0xFC000): a reserved encoding, refused (R98). -/
def execEventReserved40 (_off : Byte) (_d : Byte) (_s : State) : Res := .refused .reservedEncoding

/-- EVENT 0x80..0xFF (reserved) (0xC8000, mask 0xF8000): a reserved encoding, refused (R98). -/
def execEventReserved80 (_off : Byte) (_d : Byte) (_s : State) : Res := .refused .reservedEncoding

/-- EVENT with W=1 (reserved) (0xE0000, mask 0xF0000): a reserved encoding, refused (R98). -/
def execEventWrite (_off : Byte) (_d : Byte) (_s : State) : Res := .refused .reservedEncoding

/-- Z=1 (reserved) (0x10000, mask 0x10000): a reserved encoding, refused (R98). -/
def execZReserved (_r : BitVec 2) (_w : Bool) (_off : Byte) (_d : Byte) (_s : State) : Res := .refused .reservedEncoding

end Sys2Proof.Machine
end

