-- ==== Sys2Proof/Machine/PortRead.lean ====
section
/-! DEFINITION. The meanings of the bus reads of the PORT region. -/

namespace Sys2Proof.Machine

open Sys2Proof

/-- RD PORT.DIR (0x00000, mask 0xFFF00): a bus read (R152), R185. -/
def execRdPortDir (s : State) : Res := transact (.read .port 0x00) s

/-- RD PORT.DIRSET (0x00100, mask 0xFFF00): a bus read (R152), R185. -/
def execRdPortDirset (s : State) : Res := transact (.read .port 0x01) s

/-- RD PORT.DIRCLR (0x00200, mask 0xFFF00): a bus read (R152), R185. -/
def execRdPortDirclr (s : State) : Res := transact (.read .port 0x02) s

/-- RD PORT.DIRTGL (0x00300, mask 0xFFF00): a bus read (R152), R185. -/
def execRdPortDirtgl (s : State) : Res := transact (.read .port 0x03) s

/-- RD PORT.OUT (0x00400, mask 0xFFF00): a bus read (R152), R185. -/
def execRdPortOut (s : State) : Res := transact (.read .port 0x04) s

/-- RD PORT.OUTSET (0x00500, mask 0xFFF00): a bus read (R152), R185. -/
def execRdPortOutset (s : State) : Res := transact (.read .port 0x05) s

/-- RD PORT.OUTCLR (0x00600, mask 0xFFF00): a bus read (R152), R185. -/
def execRdPortOutclr (s : State) : Res := transact (.read .port 0x06) s

/-- RD PORT.OUTTGL (0x00700, mask 0xFFF00): a bus read (R152), R185. -/
def execRdPortOuttgl (s : State) : Res := transact (.read .port 0x07) s

/-- RD PORT.IN (0x00800, mask 0xFFF00): a bus read (R152), R185. -/
def execRdPortIn (s : State) : Res := transact (.read .port 0x08) s

/-- RD PORT.INTFLAGS (0x00900, mask 0xFFF00): a bus read (R152), R185. -/
def execRdPortIntflags (s : State) : Res := transact (.read .port 0x09) s

/-- RD PORT.PIN0CTRL (0x01000, mask 0xFFF00): a bus read (R152), R185. -/
def execRdPortPin0ctrl (s : State) : Res := transact (.read .port 0x10) s

/-- RD PORT.PIN1CTRL (0x01100, mask 0xFFF00): a bus read (R152), R185. -/
def execRdPortPin1ctrl (s : State) : Res := transact (.read .port 0x11) s

/-- RD PORT.PIN2CTRL (0x01200, mask 0xFFF00): a bus read (R152), R185. -/
def execRdPortPin2ctrl (s : State) : Res := transact (.read .port 0x12) s

/-- RD PORT.PIN3CTRL (0x01300, mask 0xFFF00): a bus read (R152), R185. -/
def execRdPortPin3ctrl (s : State) : Res := transact (.read .port 0x13) s

/-- RD PORT.PIN4CTRL (0x01400, mask 0xFFF00): a bus read (R152), R185. -/
def execRdPortPin4ctrl (s : State) : Res := transact (.read .port 0x14) s

/-- RD PORT.PIN5CTRL (0x01500, mask 0xFFF00): a bus read (R152), R185. -/
def execRdPortPin5ctrl (s : State) : Res := transact (.read .port 0x15) s

/-- RD PORT.PIN6CTRL (0x01600, mask 0xFFF00): a bus read (R152), R185. -/
def execRdPortPin6ctrl (s : State) : Res := transact (.read .port 0x16) s

/-- RD PORT.PIN7CTRL (0x01700, mask 0xFFF00): a bus read (R152), R185. -/
def execRdPortPin7ctrl (s : State) : Res := transact (.read .port 0x17) s

/-- RD PORT+0x0A..0x0B (reserved) (0x00A00, mask 0xFFE00): a bus read of a claimed offset that names no register: 0 (R100, R185). -/
def execRdPortReserved0A (off : Byte) (s : State) : Res := transact (.read .port off.toNat) s

/-- RD PORT+0x0C..0x0F (reserved) (0x00C00, mask 0xFFC00): a bus read of a claimed offset that names no register: 0 (R100, R185). -/
def execRdPortReserved0C (off : Byte) (s : State) : Res := transact (.read .port off.toNat) s

/-- RD PORT+0x18..0x1F (reserved) (0x01800, mask 0xFF800): a bus read of a claimed offset that names no register: 0 (R100, R185). -/
def execRdPortReserved18 (off : Byte) (s : State) : Res := transact (.read .port off.toNat) s

/-- RD PORT+0x20..0x3F (unclaimed) (0x02000, mask 0xFE000): refused as Unclaimed where the offset is outside the span (R99). -/
def execRdPortUnclaimed20 (off : Byte) (s : State) : Res := transact (.read .port off.toNat) s

/-- RD PORT+0x40..0x7F (unclaimed) (0x04000, mask 0xFC000): refused as Unclaimed where the offset is outside the span (R99). -/
def execRdPortUnclaimed40 (off : Byte) (s : State) : Res := transact (.read .port off.toNat) s

/-- RD PORT+0x80..0xFF (unclaimed) (0x08000, mask 0xF8000): refused as Unclaimed where the offset is outside the span (R99). -/
def execRdPortUnclaimed80 (off : Byte) (s : State) : Res := transact (.read .port off.toNat) s

end Sys2Proof.Machine
end

