-- ==== Sys2Proof/Machine/PortWrite.lean ====
section
/-! DEFINITION. The meanings of the bus writes of the PORT region. -/

namespace Sys2Proof.Machine

open Sys2Proof

/-- WR PORT.DIR (0x20000, mask 0xFFF00): a bus write (R153), R171. -/
def execWrPortDir (v : Byte) (s : State) : Res := transact (.write .port 0x00 v) s

/-- WR PORT.DIRSET (0x20100, mask 0xFFF00): a bus write (R153), R172. -/
def execWrPortDirset (v : Byte) (s : State) : Res := transact (.write .port 0x01 v) s

/-- WR PORT.DIRCLR (0x20200, mask 0xFFF00): a bus write (R153), R173. -/
def execWrPortDirclr (v : Byte) (s : State) : Res := transact (.write .port 0x02 v) s

/-- WR PORT.DIRTGL (0x20300, mask 0xFFF00): a bus write (R153), R174. -/
def execWrPortDirtgl (v : Byte) (s : State) : Res := transact (.write .port 0x03 v) s

/-- WR PORT.OUT (0x20400, mask 0xFFF00): a bus write (R153), R175. -/
def execWrPortOut (v : Byte) (s : State) : Res := transact (.write .port 0x04 v) s

/-- WR PORT.OUTSET (0x20500, mask 0xFFF00): a bus write (R153), R176. -/
def execWrPortOutset (v : Byte) (s : State) : Res := transact (.write .port 0x05 v) s

/-- WR PORT.OUTCLR (0x20600, mask 0xFFF00): a bus write (R153), R177. -/
def execWrPortOutclr (v : Byte) (s : State) : Res := transact (.write .port 0x06 v) s

/-- WR PORT.OUTTGL (0x20700, mask 0xFFF00): a bus write (R153), R178. -/
def execWrPortOuttgl (v : Byte) (s : State) : Res := transact (.write .port 0x07 v) s

/-- WR PORT.IN (0x20800, mask 0xFFF00): a bus write (R153), R179. -/
def execWrPortIn (v : Byte) (s : State) : Res := transact (.write .port 0x08 v) s

/-- WR PORT.INTFLAGS (0x20900, mask 0xFFF00): a bus write (R153), R180. -/
def execWrPortIntflags (v : Byte) (s : State) : Res := transact (.write .port 0x09 v) s

/-- WR PORT.PIN0CTRL (0x21000, mask 0xFFF00): a bus write (R153), R181. -/
def execWrPortPin0ctrl (v : Byte) (s : State) : Res := transact (.write .port 0x10 v) s

/-- WR PORT.PIN1CTRL (0x21100, mask 0xFFF00): a bus write (R153), R181. -/
def execWrPortPin1ctrl (v : Byte) (s : State) : Res := transact (.write .port 0x11 v) s

/-- WR PORT.PIN2CTRL (0x21200, mask 0xFFF00): a bus write (R153), R181. -/
def execWrPortPin2ctrl (v : Byte) (s : State) : Res := transact (.write .port 0x12 v) s

/-- WR PORT.PIN3CTRL (0x21300, mask 0xFFF00): a bus write (R153), R181. -/
def execWrPortPin3ctrl (v : Byte) (s : State) : Res := transact (.write .port 0x13 v) s

/-- WR PORT.PIN4CTRL (0x21400, mask 0xFFF00): a bus write (R153), R181. -/
def execWrPortPin4ctrl (v : Byte) (s : State) : Res := transact (.write .port 0x14 v) s

/-- WR PORT.PIN5CTRL (0x21500, mask 0xFFF00): a bus write (R153), R181. -/
def execWrPortPin5ctrl (v : Byte) (s : State) : Res := transact (.write .port 0x15 v) s

/-- WR PORT.PIN6CTRL (0x21600, mask 0xFFF00): a bus write (R153), R181. -/
def execWrPortPin6ctrl (v : Byte) (s : State) : Res := transact (.write .port 0x16 v) s

/-- WR PORT.PIN7CTRL (0x21700, mask 0xFFF00): a bus write (R153), R181. -/
def execWrPortPin7ctrl (v : Byte) (s : State) : Res := transact (.write .port 0x17 v) s

/-- WR PORT+0x0A..0x0B (reserved) (0x20A00, mask 0xFFE00): a bus write to a claimed offset that names no register: nothing (R100, R182). -/
def execWrPortReserved0A (off : Byte) (v : Byte) (s : State) : Res := transact (.write .port off.toNat v) s

/-- WR PORT+0x0C..0x0F (reserved) (0x20C00, mask 0xFFC00): a bus write to a claimed offset that names no register: nothing (R100, R182). -/
def execWrPortReserved0C (off : Byte) (v : Byte) (s : State) : Res := transact (.write .port off.toNat v) s

/-- WR PORT+0x18..0x1F (reserved) (0x21800, mask 0xFF800): a bus write to a claimed offset that names no register: nothing (R100, R182). -/
def execWrPortReserved18 (off : Byte) (v : Byte) (s : State) : Res := transact (.write .port off.toNat v) s

/-- WR PORT+0x20..0x3F (unclaimed) (0x22000, mask 0xFE000): refused as Unclaimed where the offset is outside the span (R99). -/
def execWrPortUnclaimed20 (off : Byte) (v : Byte) (s : State) : Res := transact (.write .port off.toNat v) s

/-- WR PORT+0x40..0x7F (unclaimed) (0x24000, mask 0xFC000): refused as Unclaimed where the offset is outside the span (R99). -/
def execWrPortUnclaimed40 (off : Byte) (v : Byte) (s : State) : Res := transact (.write .port off.toNat v) s

/-- WR PORT+0x80..0xFF (unclaimed) (0x28000, mask 0xF8000): refused as Unclaimed where the offset is outside the span (R99). -/
def execWrPortUnclaimed80 (off : Byte) (v : Byte) (s : State) : Res := transact (.write .port off.toNat v) s

end Sys2Proof.Machine
end

