-- ==== Sys2Proof/Machine/Vport.lean ====
section
/-! DEFINITION. The meanings of the bus reads and writes of the VPORT region. -/

namespace Sys2Proof.Machine

open Sys2Proof

/-- RD VPORT.DIR (0x40000, mask 0xFFF00): a bus read (R152), R200. -/
def execRdVportDir (s : State) : Res := transact (.read .vport 0x00) s

/-- RD VPORT.OUT (0x40100, mask 0xFFF00): a bus read (R152), R200. -/
def execRdVportOut (s : State) : Res := transact (.read .vport 0x01) s

/-- RD VPORT.IN (0x40200, mask 0xFFF00): a bus read (R152), R200. -/
def execRdVportIn (s : State) : Res := transact (.read .vport 0x02) s

/-- RD VPORT.INTFLAGS (0x40300, mask 0xFFF00): a bus read (R152), R200. -/
def execRdVportIntflags (s : State) : Res := transact (.read .vport 0x03) s

/-- RD VPORT+0x04..0x07 (unclaimed) (0x40400, mask 0xFFC00): refused as Unclaimed where the offset is outside the span (R99). -/
def execRdVportUnclaimed04 (off : Byte) (s : State) : Res := transact (.read .vport off.toNat) s

/-- RD VPORT+0x08..0x0F (unclaimed) (0x40800, mask 0xFF800): refused as Unclaimed where the offset is outside the span (R99). -/
def execRdVportUnclaimed08 (off : Byte) (s : State) : Res := transact (.read .vport off.toNat) s

/-- RD VPORT+0x10..0x1F (unclaimed) (0x41000, mask 0xFF000): refused as Unclaimed where the offset is outside the span (R99). -/
def execRdVportUnclaimed10 (off : Byte) (s : State) : Res := transact (.read .vport off.toNat) s

/-- RD VPORT+0x20..0x3F (unclaimed) (0x42000, mask 0xFE000): refused as Unclaimed where the offset is outside the span (R99). -/
def execRdVportUnclaimed20 (off : Byte) (s : State) : Res := transact (.read .vport off.toNat) s

/-- RD VPORT+0x40..0x7F (unclaimed) (0x44000, mask 0xFC000): refused as Unclaimed where the offset is outside the span (R99). -/
def execRdVportUnclaimed40 (off : Byte) (s : State) : Res := transact (.read .vport off.toNat) s

/-- RD VPORT+0x80..0xFF (unclaimed) (0x48000, mask 0xF8000): refused as Unclaimed where the offset is outside the span (R99). -/
def execRdVportUnclaimed80 (off : Byte) (s : State) : Res := transact (.read .vport off.toNat) s

/-- WR VPORT.DIR (0x60000, mask 0xFFF00): a bus write (R153), R201. -/
def execWrVportDir (v : Byte) (s : State) : Res := transact (.write .vport 0x00 v) s

/-- WR VPORT.OUT (0x60100, mask 0xFFF00): a bus write (R153), R202. -/
def execWrVportOut (v : Byte) (s : State) : Res := transact (.write .vport 0x01 v) s

/-- WR VPORT.IN (0x60200, mask 0xFFF00): a bus write (R153), R203. -/
def execWrVportIn (v : Byte) (s : State) : Res := transact (.write .vport 0x02 v) s

/-- WR VPORT.INTFLAGS (0x60300, mask 0xFFF00): a bus write (R153), R204. -/
def execWrVportIntflags (v : Byte) (s : State) : Res := transact (.write .vport 0x03 v) s

/-- WR VPORT+0x04..0x07 (unclaimed) (0x60400, mask 0xFFC00): refused as Unclaimed where the offset is outside the span (R99). -/
def execWrVportUnclaimed04 (off : Byte) (v : Byte) (s : State) : Res := transact (.write .vport off.toNat v) s

/-- WR VPORT+0x08..0x0F (unclaimed) (0x60800, mask 0xFF800): refused as Unclaimed where the offset is outside the span (R99). -/
def execWrVportUnclaimed08 (off : Byte) (v : Byte) (s : State) : Res := transact (.write .vport off.toNat v) s

/-- WR VPORT+0x10..0x1F (unclaimed) (0x61000, mask 0xFF000): refused as Unclaimed where the offset is outside the span (R99). -/
def execWrVportUnclaimed10 (off : Byte) (v : Byte) (s : State) : Res := transact (.write .vport off.toNat v) s

/-- WR VPORT+0x20..0x3F (unclaimed) (0x62000, mask 0xFE000): refused as Unclaimed where the offset is outside the span (R99). -/
def execWrVportUnclaimed20 (off : Byte) (v : Byte) (s : State) : Res := transact (.write .vport off.toNat v) s

/-- WR VPORT+0x40..0x7F (unclaimed) (0x64000, mask 0xFC000): refused as Unclaimed where the offset is outside the span (R99). -/
def execWrVportUnclaimed40 (off : Byte) (v : Byte) (s : State) : Res := transact (.write .vport off.toNat v) s

/-- WR VPORT+0x80..0xFF (unclaimed) (0x68000, mask 0xF8000): refused as Unclaimed where the offset is outside the span (R99). -/
def execWrVportUnclaimed80 (off : Byte) (v : Byte) (s : State) : Res := transact (.write .vport off.toNat v) s

end Sys2Proof.Machine
end

