-- ==== Sys2Proof/Machine/Dispatch.lean ====
section
/-! DEFINITION. One arm per transaction of spec/opcode_table.json, each one call of its meaning. -/

namespace Sys2Proof.Machine

def exec (i : Instr) (s : State) : Host.Outcome State Fault Refusal :=
  match i with
  | .rdPortDir => Sys2Proof.Machine.execRdPortDir s
  | .rdPortDirset => Sys2Proof.Machine.execRdPortDirset s
  | .rdPortDirclr => Sys2Proof.Machine.execRdPortDirclr s
  | .rdPortDirtgl => Sys2Proof.Machine.execRdPortDirtgl s
  | .rdPortOut => Sys2Proof.Machine.execRdPortOut s
  | .rdPortOutset => Sys2Proof.Machine.execRdPortOutset s
  | .rdPortOutclr => Sys2Proof.Machine.execRdPortOutclr s
  | .rdPortOuttgl => Sys2Proof.Machine.execRdPortOuttgl s
  | .rdPortIn => Sys2Proof.Machine.execRdPortIn s
  | .rdPortIntflags => Sys2Proof.Machine.execRdPortIntflags s
  | .rdPortPin0ctrl => Sys2Proof.Machine.execRdPortPin0ctrl s
  | .rdPortPin1ctrl => Sys2Proof.Machine.execRdPortPin1ctrl s
  | .rdPortPin2ctrl => Sys2Proof.Machine.execRdPortPin2ctrl s
  | .rdPortPin3ctrl => Sys2Proof.Machine.execRdPortPin3ctrl s
  | .rdPortPin4ctrl => Sys2Proof.Machine.execRdPortPin4ctrl s
  | .rdPortPin5ctrl => Sys2Proof.Machine.execRdPortPin5ctrl s
  | .rdPortPin6ctrl => Sys2Proof.Machine.execRdPortPin6ctrl s
  | .rdPortPin7ctrl => Sys2Proof.Machine.execRdPortPin7ctrl s
  | .rdPortReserved0A off => Sys2Proof.Machine.execRdPortReserved0A off s
  | .rdPortReserved0C off => Sys2Proof.Machine.execRdPortReserved0C off s
  | .rdPortReserved18 off => Sys2Proof.Machine.execRdPortReserved18 off s
  | .rdPortUnclaimed20 off => Sys2Proof.Machine.execRdPortUnclaimed20 off s
  | .rdPortUnclaimed40 off => Sys2Proof.Machine.execRdPortUnclaimed40 off s
  | .rdPortUnclaimed80 off => Sys2Proof.Machine.execRdPortUnclaimed80 off s
  | .wrPortDir v => Sys2Proof.Machine.execWrPortDir v s
  | .wrPortDirset v => Sys2Proof.Machine.execWrPortDirset v s
  | .wrPortDirclr v => Sys2Proof.Machine.execWrPortDirclr v s
  | .wrPortDirtgl v => Sys2Proof.Machine.execWrPortDirtgl v s
  | .wrPortOut v => Sys2Proof.Machine.execWrPortOut v s
  | .wrPortOutset v => Sys2Proof.Machine.execWrPortOutset v s
  | .wrPortOutclr v => Sys2Proof.Machine.execWrPortOutclr v s
  | .wrPortOuttgl v => Sys2Proof.Machine.execWrPortOuttgl v s
  | .wrPortIn v => Sys2Proof.Machine.execWrPortIn v s
  | .wrPortIntflags v => Sys2Proof.Machine.execWrPortIntflags v s
  | .wrPortPin0ctrl v => Sys2Proof.Machine.execWrPortPin0ctrl v s
  | .wrPortPin1ctrl v => Sys2Proof.Machine.execWrPortPin1ctrl v s
  | .wrPortPin2ctrl v => Sys2Proof.Machine.execWrPortPin2ctrl v s
  | .wrPortPin3ctrl v => Sys2Proof.Machine.execWrPortPin3ctrl v s
  | .wrPortPin4ctrl v => Sys2Proof.Machine.execWrPortPin4ctrl v s
  | .wrPortPin5ctrl v => Sys2Proof.Machine.execWrPortPin5ctrl v s
  | .wrPortPin6ctrl v => Sys2Proof.Machine.execWrPortPin6ctrl v s
  | .wrPortPin7ctrl v => Sys2Proof.Machine.execWrPortPin7ctrl v s
  | .wrPortReserved0A off v => Sys2Proof.Machine.execWrPortReserved0A off v s
  | .wrPortReserved0C off v => Sys2Proof.Machine.execWrPortReserved0C off v s
  | .wrPortReserved18 off v => Sys2Proof.Machine.execWrPortReserved18 off v s
  | .wrPortUnclaimed20 off v => Sys2Proof.Machine.execWrPortUnclaimed20 off v s
  | .wrPortUnclaimed40 off v => Sys2Proof.Machine.execWrPortUnclaimed40 off v s
  | .wrPortUnclaimed80 off v => Sys2Proof.Machine.execWrPortUnclaimed80 off v s
  | .rdVportDir => Sys2Proof.Machine.execRdVportDir s
  | .rdVportOut => Sys2Proof.Machine.execRdVportOut s
  | .rdVportIn => Sys2Proof.Machine.execRdVportIn s
  | .rdVportIntflags => Sys2Proof.Machine.execRdVportIntflags s
  | .rdVportUnclaimed04 off => Sys2Proof.Machine.execRdVportUnclaimed04 off s
  | .rdVportUnclaimed08 off => Sys2Proof.Machine.execRdVportUnclaimed08 off s
  | .rdVportUnclaimed10 off => Sys2Proof.Machine.execRdVportUnclaimed10 off s
  | .rdVportUnclaimed20 off => Sys2Proof.Machine.execRdVportUnclaimed20 off s
  | .rdVportUnclaimed40 off => Sys2Proof.Machine.execRdVportUnclaimed40 off s
  | .rdVportUnclaimed80 off => Sys2Proof.Machine.execRdVportUnclaimed80 off s
  | .wrVportDir v => Sys2Proof.Machine.execWrVportDir v s
  | .wrVportOut v => Sys2Proof.Machine.execWrVportOut v s
  | .wrVportIn v => Sys2Proof.Machine.execWrVportIn v s
  | .wrVportIntflags v => Sys2Proof.Machine.execWrVportIntflags v s
  | .wrVportUnclaimed04 off v => Sys2Proof.Machine.execWrVportUnclaimed04 off v s
  | .wrVportUnclaimed08 off v => Sys2Proof.Machine.execWrVportUnclaimed08 off v s
  | .wrVportUnclaimed10 off v => Sys2Proof.Machine.execWrVportUnclaimed10 off v s
  | .wrVportUnclaimed20 off v => Sys2Proof.Machine.execWrVportUnclaimed20 off v s
  | .wrVportUnclaimed40 off v => Sys2Proof.Machine.execWrVportUnclaimed40 off v s
  | .wrVportUnclaimed80 off v => Sys2Proof.Machine.execWrVportUnclaimed80 off v s
  | .rdAcCtrla => Sys2Proof.Machine.execRdAcCtrla s
  | .rdAcMuxctrla => Sys2Proof.Machine.execRdAcMuxctrla s
  | .rdAcIntctrl => Sys2Proof.Machine.execRdAcIntctrl s
  | .rdAcStatus => Sys2Proof.Machine.execRdAcStatus s
  | .rdAcReserved01 => Sys2Proof.Machine.execRdAcReserved01 s
  | .rdAcReserved03 => Sys2Proof.Machine.execRdAcReserved03 s
  | .rdAcReserved04 off => Sys2Proof.Machine.execRdAcReserved04 off s
  | .rdAcUnclaimed08 off => Sys2Proof.Machine.execRdAcUnclaimed08 off s
  | .rdAcUnclaimed10 off => Sys2Proof.Machine.execRdAcUnclaimed10 off s
  | .rdAcUnclaimed20 off => Sys2Proof.Machine.execRdAcUnclaimed20 off s
  | .rdAcUnclaimed40 off => Sys2Proof.Machine.execRdAcUnclaimed40 off s
  | .rdAcUnclaimed80 off => Sys2Proof.Machine.execRdAcUnclaimed80 off s
  | .wrAcCtrla v => Sys2Proof.Machine.execWrAcCtrla v s
  | .wrAcMuxctrla v => Sys2Proof.Machine.execWrAcMuxctrla v s
  | .wrAcIntctrl v => Sys2Proof.Machine.execWrAcIntctrl v s
  | .wrAcStatus v => Sys2Proof.Machine.execWrAcStatus v s
  | .wrAcReserved01 v => Sys2Proof.Machine.execWrAcReserved01 v s
  | .wrAcReserved03 v => Sys2Proof.Machine.execWrAcReserved03 v s
  | .wrAcReserved04 off v => Sys2Proof.Machine.execWrAcReserved04 off v s
  | .wrAcUnclaimed08 off v => Sys2Proof.Machine.execWrAcUnclaimed08 off v s
  | .wrAcUnclaimed10 off v => Sys2Proof.Machine.execWrAcUnclaimed10 off v s
  | .wrAcUnclaimed20 off v => Sys2Proof.Machine.execWrAcUnclaimed20 off v s
  | .wrAcUnclaimed40 off v => Sys2Proof.Machine.execWrAcUnclaimed40 off v s
  | .wrAcUnclaimed80 off v => Sys2Proof.Machine.execWrAcUnclaimed80 off v s
  | .pinsetLow n => Sys2Proof.Machine.execPinsetLow n s
  | .pinsetHigh n => Sys2Proof.Machine.execPinsetHigh n s
  | .pinsetFloating n => Sys2Proof.Machine.execPinsetFloating n s
  | .pinsetPullUp n => Sys2Proof.Machine.execPinsetPullUp n s
  | .pinsetPullDown n => Sys2Proof.Machine.execPinsetPullDown n s
  | .pinsetAnalog n => Sys2Proof.Machine.execPinsetAnalog n s
  | .pinsetShorted n => Sys2Proof.Machine.execPinsetShorted n s
  | .pinsetState7 d => Sys2Proof.Machine.execPinsetState7 d s
  | .reset => Sys2Proof.Machine.execReset s
  | .init => Sys2Proof.Machine.execInit s
  | .sleep m => Sys2Proof.Machine.execSleep m s
  | .wake => Sys2Proof.Machine.execWake s
  | .achan k u => Sys2Proof.Machine.execAchan k u s
  | .aref u => Sys2Proof.Machine.execAref u s
  | .getAcOut => Sys2Proof.Machine.execGetAcOut s
  | .getAcRef => Sys2Proof.Machine.execGetAcRef s
  | .getPortSignal => Sys2Proof.Machine.execGetPortSignal s
  | .eventReserved0A off d => Sys2Proof.Machine.execEventReserved0A off d s
  | .eventReserved0C off d => Sys2Proof.Machine.execEventReserved0C off d s
  | .eventReserved10 off d => Sys2Proof.Machine.execEventReserved10 off d s
  | .eventReserved20 off d => Sys2Proof.Machine.execEventReserved20 off d s
  | .eventReserved40 off d => Sys2Proof.Machine.execEventReserved40 off d s
  | .eventReserved80 off d => Sys2Proof.Machine.execEventReserved80 off d s
  | .eventWrite off d => Sys2Proof.Machine.execEventWrite off d s
  | .zReserved r w off d => Sys2Proof.Machine.execZReserved r w off d s

end Sys2Proof.Machine
end

