-- ==== Sys2Proof/Machine/Step.lean ====
section
/-! DEFINITION. One step: the next input at the block's boundary is taken and performed (R13, R16). -/

namespace Sys2Proof.Machine

open Sys2Proof

/-- One step (R16: "each step takes one transaction"). A TW20 word runs the instruction it decodes to; a bus access by
absolute address and a fetch go through `performInput`; with nothing at the boundary there is no transaction to
perform. -/
def step (s : State) : Host.Outcome State Fault Refusal :=
  match s.inbox with
  | [] => .refused .noInput
  | .word w u :: rest => exec (decode w u) { s with inbox := rest }
  | x :: rest => performInput x { s with inbox := rest }

/-- The state with the word whose bits are `w` put first at the boundary, with operand 0, so that the next step runs
it. -/
def State.withFetchWord (s : State) (_nbits w : Nat) : State :=
  { s with inbox := .word (BitVec.ofNat 20 w) 0 :: s.inbox }

end Sys2Proof.Machine
end

