-- ==== Sys2Proof/Machine/Script.lean ====
section
/-! DEFINITION. The script syntax of R116 and the pseudo-instructions of R117 as data, and the TW20 word each line
assembles to. -/

namespace Sys2Proof.Machine

open Sys2Proof

/-- The offset of a PORT register by name (R93); the reserved offsets have no name. -/
def Config.portOffset (c : Config) : PortReg → Option Nat
  | .dir => some 0x00
  | .dirset => some 0x01
  | .dirclr => some 0x02
  | .dirtgl => some 0x03
  | .out => some 0x04
  | .outset => some 0x05
  | .outclr => some 0x06
  | .outtgl => some 0x07
  | .inp => some 0x08
  | .intflags => some 0x09
  | .pinctrl n => some (c.pinctrlOffset.toNat + n.val)
  | .reserved => none

/-- The offset of a VPORT register by name (R94). -/
def vportOffset : VportReg → Option Nat
  | .dir => some 0x00
  | .out => some 0x01
  | .inp => some 0x02
  | .intflags => some 0x03
  | .reserved => none

/-- The offset of an AC register by name (R95). -/
def acOffset : AcReg → Option Nat
  | .ctrla => some 0x00
  | .muxctrla => some 0x02
  | .intctrl => some 0x06
  | .status => some 0x07
  | .reserved => none

/-- A register named in a script line, `<region>.<reg>` or `<region>+<off>` (R116). -/
inductive RegName where
  | port (reg : PortReg)
  | vport (reg : VportReg)
  | ac (reg : AcReg)
  | at (r : Region) (off : Nat)
  deriving DecidableEq, Repr, Inhabited

/-- One line of a transaction script (R116), the pseudo-instructions of R117 among them. -/
inductive ScriptLine where
  | wr (reg : RegName) (v : Byte)
  | rd (reg : RegName)
  | pinset (n : PinIx) (st : PinState)
  | reset
  | init
  | wake
  | sleep (m : SleepMode)
  | achan (k : SourceId) (u : Volt)
  | aref (u : Volt)
  | getAcOut
  | getAcRef
  | getPortSignal
  | st (addr : Nat) (v : Byte)
  | ld (addr : Nat)
  | ackPort (mask : Byte)
  | ackAc
  | pincfg (n : PinIx) (isc : BitVec 3) (pullup : Bool)
  deriving DecidableEq, Repr, Inhabited

/-- The region and offset of a register name. -/
def RegName.locate (c : Config) : RegName → Option (Region × Nat)
  | .port reg => (Config.portOffset c reg).map fun o => (.port, o)
  | .vport reg => (vportOffset reg).map fun o => (.vport, o)
  | .ac reg => (acOffset reg).map fun o => (.ac, o)
  | .at r off => some (r, off)

/-- The `R` field of a region (R90). -/
def regionField : Region → BitVec 2
  | .port => 0
  | .vport => 1
  | .ac => 2

/-- The word of a bus write at a location, if its offset fits the `O` field. -/
def assembleWrite (v : Byte) (l : Region × Nat) : Option Tw20 :=
  if l.2 < 256 then some (encodeWrite (regionField l.1) (BitVec.ofNat 8 l.2) v) else none

/-- The word of a bus read at a location, if its offset fits the `O` field. -/
def assembleRead (l : Region × Nat) : Option Tw20 :=
  if l.2 < 256 then some (encodeRead (regionField l.1) (BitVec.ofNat 8 l.2)) else none

/-- The data byte of `PINCFG`: `(pullup<<3) | isc` (R117). -/
def pincfgByte (isc : BitVec 3) (pullup : Bool) : Byte := 0#4 ++ BitVec.ofBool pullup ++ isc

/-- The word a script line assembles to (R116, R117); `none` for a pseudo-instruction "refused `Unclaimed`" and for a
name without an offset. -/
def assemble (c : Config) : ScriptLine → Option Tw20
  | .wr reg v => (RegName.locate c reg).bind (assembleWrite v)
  | .rd reg => (RegName.locate c reg).bind assembleRead
  | .pinset n st => some (encodeEvent 0x00 (pinsetArg n st))
  | .reset => some (encode .reset)
  | .init => some (encode .init)
  | .wake => some (encode .wake)
  | .sleep m => some (encode (.sleep m))
  | .achan k u => some (encode (.achan k u))
  | .aref u => some (encode (.aref u))
  | .getAcOut => some (encode .getAcOut)
  | .getAcRef => some (encode .getAcRef)
  | .getPortSignal => some (encode .getPortSignal)
  | .st a v => (c.locate a).bind (assembleWrite v)
  | .ld a => (c.locate a).bind assembleRead
  | .ackPort m => some (encode (.wrPortIntflags m))
  | .ackAc => some (encode (.wrAcStatus 0x01))
  | .pincfg n isc pullup => (RegName.locate c (.port (.pinctrl n))).bind (assembleWrite (pincfgByte isc pullup))

end Sys2Proof.Machine
end

