-- ==== Sys2Proof/Safety.lean ====
section
/-! DEFINITION. The terms the claims are stated in: the invariant of R30, R31, R43, R155 and R262, a block in operation,
a silent environment, and what a drive, a re-drive and an evaluation leave when no hook outside the block acts. -/

namespace Sys2Proof.Machine

open Sys2Proof

/-! ## The invariant -/

/-- A list entry is the port's own hook. -/
def Subscriber.isPort : Subscriber → Bool
  | .port _ => true
  | .ext _ _ => false

/-- The PORT part: R30's masks, PINnCTRL 0 for an absent pin (R27), and `portReq = (INTFLAGS != 0)` (R31). -/
structure State.PortOk (s : State) : Prop where
  dir : s.port.dir &&& ~~~s.cfg.pinMask = 0
  out : s.port.out &&& ~~~s.cfg.pinMask = 0
  inp : s.port.inp &&& ~~~s.cfg.pinMask = 0
  intflags : s.port.intflags &&& ~~~s.cfg.pinMask = 0
  pinctrl : ∀ i, s.cfg.hasPin i = false → s.pinctrl i = 0
  portReq : s.portReq = (s.port.intflags != 0)

/-- The comparator part: the stored masks of R155, `ac.suspended` as R43 derives it, and
`acReq = STATUS.CMP and INTCTRL.CMP` (R262). -/
structure State.AcOk (s : State) : Prop where
  ctrla : s.ac.ctrla &&& ~~~ctrlaMask = 0
  muxctrla : s.ac.muxctrla &&& ~~~muxctrlaMask = 0
  intctrl : s.ac.intctrl &&& ~~~intctrlMask = 0
  suspended : s.ac.suspended = s.suspendedNow
  acReq : s.acReq = s.acReqWanted

/-- What a successful INIT has registered: the claims of R150 and the subscriber lists of R35, which "change only at
initialization and destruction": on each existing pin the port's hook with the pin's index as its tag and the entries of
`PIN_SUBSCRIBERS(i)` around it. -/
structure State.Registered (s : State) : Prop where
  initOk : s.cfg.initOk = true
  claims : s.claims = s.cfg.claimTable
  subs : s.subs = s.cfg.subscriptions

/-- The invariant of the block between transactions, in every lifecycle state. Registers and request lines are
constrained once the block is Ready: "Before the first reset, the register and pin values are unspecified" (R48). -/
structure State.Inv (s : State) : Prop where
  delivering : s.delivering = []
  chan : chanWf s.ac.chan = true
  absentPins : ∀ i, s.cfg.hasPin i = false → s.pin i = none
  registered : s.init = .initialized ∨ s.init = .ready → s.Registered
  port : s.init = .ready → s.PortOk
  ac : s.init = .ready → s.AcOk
  pins : s.init = .ready → ∀ i, s.cfg.hasPin i = true → (s.pin i).isSome = true

/-- A block in operation: the invariant, and Ready (R45). -/
structure State.Operating (s : State) : Prop where
  inv : s.Inv
  ready : s.init = .ready

/-- No hook outside the block does anything when it is called. -/
def State.Silent (s : State) : Prop := s.env = []

/-- IN shows the logic level of every pin that is not Shorted (R25, R221, R225). -/
def State.InFollowsPins (s : State) : Prop :=
  ∀ i st, s.pin i = some st → st ≠ .shorted → bitAt s.port.inp i = pinLevel st

/-! ## What the trace gains when the environment is silent -/

/-- The events `l` appended to the trace. -/
def State.emitAll (s : State) (l : List Event) : State := { s with trace := s.trace ++ l }

/-- What the trace shows of one entry of a list being called with a payload: a hook outside the block appears as `Signal`
with its own tag (R126, R130). -/
def signalTo (bus : BusId) (id : SignalId) (payload : Payload) : Subscriber → List Event
  | .port _ => []
  | .ext _ tag => [.signal bus id payload tag]

/-- One `Signal` per hook outside the block on the bus's list, in subscription order (R130). -/
def State.signals (s : State) (bus : BusId) (id : SignalId) (payload : Payload) : List Event :=
  (s.subscribers bus).flatMap (signalTo bus id payload)

/-- What the port's hook for pin `i` reports of a change to `st` while IN is `inp` (R222): PinShorted (R225); else the new
IN byte to the subscribers of the output-value signal if the level changed (R223), then one Raise if the sense condition
holds and the flag was clear (R224, R228). -/
def State.hookEvents (s : State) (inp : Byte) (i : PinIx) (st : PinState) : List Event :=
  if st = .shorted then [.pinShorted ⟨s.cfg.portLetter, i⟩]
  else if s.inputsSense = false then []
  else
    (if pinLevel st != bitAt inp i then s.signals .portValue .portValue (.portByte (withBit inp i (pinLevel st))) else [])
      ++ (if senseHolds (s.isc i) (bitAt inp i) (pinLevel st) && !bitAt s.port.intflags i
          then [.raise s.cfg.portVector] else [])

/-- What one entry of pin `i`'s list reports of a change to `st`; the port's own has the pin's index as its tag (R35). -/
def State.pinEvents (s : State) (inp : Byte) (i : PinIx) (st : PinState) (x : Subscriber) : List Event :=
  if Subscriber.isPort x then s.hookEvents inp i st else signalTo (.pin i) .digitalStateChanged (.pinState st) x

/-- What a drive of pin `i` to `st` reports while IN is `inp`: nothing if the pin is in that state (R124), else what the
entries of its list report, in subscription order (R130). -/
def State.driveEvents (s : State) (inp : Byte) (i : PinIx) (st : PinState) : List Event :=
  if s.pin i = some st then [] else (s.subscribers (.pin i)).flatMap (s.pinEvents inp i st)

/-! ## What a drive leaves when the environment is silent -/

/-- The port's hook is called with a state other than Shorted when pin `i` is driven to `st`, and records it (R124, R222,
R225, R230). -/
def State.senses (s : State) (i : PinIx) (st : PinState) : Bool :=
  decide (s.pin i ≠ some st) && st != .shorted && s.inputsSense

/-- What driving the existing pins of `l` one after another to their driven states reports, IN being `inp` when the first
of them is driven (R191, R194, R309). -/
def State.redriveEvents (s : State) (inp : Byte) : List PinIx → List Event
  | [] => []
  | i :: l =>
    if s.cfg.hasPin i then
      s.driveEvents inp i (s.drivenState i) ++
        s.redriveEvents (if s.senses i (s.drivenState i) then withBit inp i (pinLevel (s.drivenState i)) else inp) l
    else s.redriveEvents inp l

/-- IN[i] after pin `i` is driven to `st` (R222). -/
def State.inAfter (s : State) (i : PinIx) (st : PinState) : Bool :=
  if s.senses i st then pinLevel st else bitAt s.port.inp i

/-- INTFLAGS[i] after pin `i` is driven to `st` (R222, R224). -/
def State.flagAfter (s : State) (i : PinIx) (st : PinState) : Bool :=
  bitAt s.port.intflags i || (s.senses i st && senseHolds (s.isc i) (bitAt s.port.inp i) (pinLevel st))

/-- Only the PORT's registers, the pins, the PORT request line and the trace differ. -/
def OnlyPortDiffers (s t : State) : Prop :=
  t = { s with port := t.port, pins := t.pins, portReq := t.portReq, trace := t.trace }

/-- `t` is `s` with pin `n` driven to `st` and the port's hook run; every other pin, and its bits of IN and INTFLAGS, is
as before, and so is every register but IN and INTFLAGS. -/
structure DrivenTo (s : State) (n : PinIx) (st : PinState) (t : State) : Prop where
  rest : OnlyPortDiffers s t
  dir : t.port.dir = s.port.dir
  out : t.port.out = s.port.out
  pinctrl : t.port.pinctrl = s.port.pinctrl
  pins : ∀ i, t.pin i = if i = n then some st else s.pin i
  inp : ∀ i, bitAt t.port.inp i = if i = n then s.inAfter n st else bitAt s.port.inp i
  intflags : ∀ i, bitAt t.port.intflags i = if i = n then s.flagAfter n st else bitAt s.port.intflags i
  portReq : t.portReq = (t.port.intflags != 0)
  trace : t.trace = s.trace ++ s.driveEvents s.port.inp n st

/-- Pin `i` is one that `redriveAll()` drives: it exists, and the port's outputs are not frozen (R191, R230). -/
def State.redrives (s : State) (i : PinIx) : Bool := s.cfg.hasPin i && s.outputsDrive

/-- `t` is `s` with every existing pin driven to its driven state and the port's hook run for each, in ascending pin order
(R191, R195, R309); where a gated port's outputs are frozen, no pin is driven (log entry 13). -/
structure Redriven (s t : State) : Prop where
  rest : OnlyPortDiffers s t
  dir : t.port.dir = s.port.dir
  out : t.port.out = s.port.out
  pinctrl : t.port.pinctrl = s.port.pinctrl
  pins : ∀ i, t.pin i = if s.redrives i then some (s.drivenState i) else s.pin i
  inp : ∀ i, bitAt t.port.inp i = if s.redrives i then s.inAfter i (s.drivenState i) else bitAt s.port.inp i
  intflags : ∀ i, bitAt t.port.intflags i =
    if s.redrives i then s.flagAfter i (s.drivenState i) else bitAt s.port.intflags i
  portReq : t.portReq = (t.port.intflags != 0)
  trace : t.trace = s.trace ++ (if s.outputsDrive then s.redriveEvents s.port.inp pinOrder else [])

/-! ## What an evaluation leaves when the environment is silent -/

/-- The value of the channel a multiplexer selects, if the index is in its table and the value was delivered (R242). -/
def State.acInput (s : State) (m : Mux) : Option Volt :=
  match s.acSelected m with
  | none => none
  | some (.src k) => s.chanValue k
  | some .ref => s.ac.ref

/-- `ac.raw` after an evaluation with input values `vp` and `vn` (R251). -/
def State.rawAfter (s : State) (vp vn : Volt) : Bool := hysteresisStep s.ac.raw (vp - vn) s.hysteresisWidth

/-- `ac.out` after an evaluation (R252). -/
def State.outAfter (s : State) (vp vn : Volt) : Bool := s.rawAfter vp vn ^^ s.acInvert

/-- STATUS.CMP after an evaluation (R255, R258). -/
def State.cmpAfter (s : State) (vp vn : Volt) : Bool :=
  s.ac.cmp || (s.outAfter vp vn != s.ac.out && qualifies s.acIntmode s.ac.out (s.outAfter vp vn))

/-- What an evaluation reports: a changed output to the subscribers of the output signal (R256), then a Raise of
`AC_VECTOR` if the transition qualifies, the interrupt is enabled and no request is pending (R258, R262). -/
def State.evalEvents (s : State) (vp vn : Volt) : List Event :=
  if s.outAfter vp vn = s.ac.out then []
  else s.signals .acOut .acOutput (.acBit (s.outAfter vp vn)) ++
    (if qualifies s.acIntmode s.ac.out (s.outAfter vp vn) && s.acIntEnable && !s.acReq
      then [.raise s.cfg.acVector] else [])

/-- `t` is `s` after `acEval()` with input values `vp` and `vn` (R255, R262). -/
def Evaluated (s : State) (vp vn : Volt) (t : State) : Prop :=
  t = { s with
    ac := { s.ac with raw := s.rawAfter vp vn, out := s.outAfter vp vn, cmp := s.cmpAfter vp vn }
    acReq := s.cmpAfter vp vn && s.acIntEnable
    trace := s.trace ++ s.evalEvents vp vn }

/-- The fault an evaluation ends in on the channel that `m` selects: an index beyond the table, or a value that was never
delivered (R242). -/
def State.inputFault (s : State) (m : Mux) : Option Fault :=
  match s.acSelected m with
  | none => some (.acChannelIndex m (s.acMux m) s)
  | some (.src k) => if s.chanValue k = none then some (.acInputUndefined (.src k) s) else none
  | some .ref => if s.ac.ref = none then some (.acInputUndefined .ref s) else none

/-- The fault an evaluation ends in: the positive channel is looked at first (R255). -/
def State.evalFault (s : State) : Option Fault :=
  match s.inputFault .pos with
  | some f => some f
  | none => s.inputFault .neg

/-! ## Families of constructors -/

/-- WR PORT.PINnCTRL by pin. -/
def pinctrlWrite (n : PinIx) (v : Byte) : Instr :=
  match n with
  | 0 => .wrPortPin0ctrl v
  | 1 => .wrPortPin1ctrl v
  | 2 => .wrPortPin2ctrl v
  | 3 => .wrPortPin3ctrl v
  | 4 => .wrPortPin4ctrl v
  | 5 => .wrPortPin5ctrl v
  | 6 => .wrPortPin6ctrl v
  | 7 => .wrPortPin7ctrl v

/-- RD PORT.PINnCTRL by pin. -/
def pinctrlRead (n : PinIx) : Instr :=
  match n with
  | 0 => .rdPortPin0ctrl
  | 1 => .rdPortPin1ctrl
  | 2 => .rdPortPin2ctrl
  | 3 => .rdPortPin3ctrl
  | 4 => .rdPortPin4ctrl
  | 5 => .rdPortPin5ctrl
  | 6 => .rdPortPin6ctrl
  | 7 => .rdPortPin7ctrl

/-- PINSET by state. -/
def pinsetOf (st : PinState) (n : PinIx) : Instr :=
  match st with
  | .low => .pinsetLow n
  | .high => .pinsetHigh n
  | .floating => .pinsetFloating n
  | .pullUp => .pinsetPullUp n
  | .pullDown => .pinsetPullDown n
  | .analog => .pinsetAnalog n
  | .shorted => .pinsetShorted n

/-- The rows of claimed offsets that name no register, as (lowest offset, highest offset, instruction) of a read. -/
def reservedReads : Region → List (Nat × Nat × (Byte → Instr))
  | .port => [(0x0A, 0x0B, .rdPortReserved0A), (0x0C, 0x0F, .rdPortReserved0C), (0x18, 0x1F, .rdPortReserved18)]
  | .vport => []
  | .ac => [(0x01, 0x01, fun _ => .rdAcReserved01), (0x03, 0x03, fun _ => .rdAcReserved03), (0x04, 0x05, .rdAcReserved04)]

/-- The same rows of a write. -/
def reservedWrites : Region → List (Nat × Nat × (Byte → Byte → Instr))
  | .port => [(0x0A, 0x0B, .wrPortReserved0A), (0x0C, 0x0F, .wrPortReserved0C), (0x18, 0x1F, .wrPortReserved18)]
  | .vport => []
  | .ac => [(0x01, 0x01, fun _ => .wrAcReserved01), (0x03, 0x03, fun _ => .wrAcReserved03), (0x04, 0x05, .wrAcReserved04)]

/-- The rows of offsets outside the default spans, as (lowest offset, highest offset, instruction) of a read (R99). -/
def unclaimedReads : Region → List (Nat × Nat × (Byte → Instr))
  | .port => [(0x20, 0x3F, .rdPortUnclaimed20), (0x40, 0x7F, .rdPortUnclaimed40), (0x80, 0xFF, .rdPortUnclaimed80)]
  | .vport => [(0x04, 0x07, .rdVportUnclaimed04), (0x08, 0x0F, .rdVportUnclaimed08), (0x10, 0x1F, .rdVportUnclaimed10),
      (0x20, 0x3F, .rdVportUnclaimed20), (0x40, 0x7F, .rdVportUnclaimed40), (0x80, 0xFF, .rdVportUnclaimed80)]
  | .ac => [(0x08, 0x0F, .rdAcUnclaimed08), (0x10, 0x1F, .rdAcUnclaimed10), (0x20, 0x3F, .rdAcUnclaimed20),
      (0x40, 0x7F, .rdAcUnclaimed40), (0x80, 0xFF, .rdAcUnclaimed80)]

/-- The same rows of a write. -/
def unclaimedWrites : Region → List (Nat × Nat × (Byte → Byte → Instr))
  | .port => [(0x20, 0x3F, .wrPortUnclaimed20), (0x40, 0x7F, .wrPortUnclaimed40), (0x80, 0xFF, .wrPortUnclaimed80)]
  | .vport => [(0x04, 0x07, .wrVportUnclaimed04), (0x08, 0x0F, .wrVportUnclaimed08), (0x10, 0x1F, .wrVportUnclaimed10),
      (0x20, 0x3F, .wrVportUnclaimed20), (0x40, 0x7F, .wrVportUnclaimed40), (0x80, 0xFF, .wrVportUnclaimed80)]
  | .ac => [(0x08, 0x0F, .wrAcUnclaimed08), (0x10, 0x1F, .wrAcUnclaimed10), (0x20, 0x3F, .wrAcUnclaimed20),
      (0x40, 0x7F, .wrAcUnclaimed40), (0x80, 0xFF, .wrAcUnclaimed80)]

end Sys2Proof.Machine
end

