-- ==== Sys2Proof/Certificates/Slice0/Obligations.lean ====
section
/-! DEFINITION. The statements for the provers. Each formalises the rules its docstring names; a statement about every
state is one about every configuration, since the configuration is a field of State. "Operating" is the invariant in a
Ready block, "silent" that no hook outside the block acts when it is called (Safety.lean). -/

open Sys2Proof Sys2Proof.Machine

/-! ## Encoding -/

/-- R119, R90 to R97: decoding the encoding of a well-formed instruction gives it back, every operand included. -/
def Obligations.DecodeInvertsEncode : Prop :=
  ∀ i : Instr, i.wellFormed = true → decode (encode i) (operandOf i) = i

/-- R119: every 20-bit word decodes to a well-formed instruction of one row, and the canonical word of that instruction
is of the same row: it decodes to the same instruction. -/
def Obligations.EveryWordDecodesToItsRow : Prop :=
  ∀ (w : Tw20) (u : Volt),
    (decode w u).wellFormed = true ∧ decode (encode (decode w u)) u = decode w u

/-- R91, R97 to R99, R119: performing the table row a word decodes to is performing what R91's decoder reads from the
word, in every state and configuration: the two decoders agree. -/
def Obligations.TableDecoderAgreesWithR91 : Prop :=
  ∀ (w : Tw20) (u : Volt) (s : State), exec (decode w u) s = performInput (.word w u) s

/-- R171, R176, R181, R185, R200, R204, R244, R248, R108, R111, R112, R99, R98: words written out in the spec decode to
the instruction they stand for. A sanity statement. -/
def Obligations.WrittenOutWordsDecode : Prop :=
  decode 0x200FF 0 = .wrPortDir 0xFF ∧ decode 0x20501 0 = .wrPortOutset 0x01 ∧
  decode 0x21305 0 = .wrPortPin3ctrl 0x05 ∧ decode 0x00800 0 = .rdPortIn ∧
  decode 0x40200 0 = .rdVportIn ∧ decode 0x60301 0 = .wrVportIntflags 0x01 ∧
  decode 0xA0031 0 = .wrAcCtrla 0x31 ∧ decode 0x80700 0 = .rdAcStatus ∧
  decode 0xC0021 0 = .pinsetHigh 2 ∧ decode 0xC0302 0 = .sleep 2 ∧
  decode 0xC0500 (3 / 5) = .achan 0 (3 / 5) ∧ decode 0x02000 0 = .rdPortUnclaimed20 0x20 ∧
  decode 0xE0000 0 = .eventWrite 0 0

/-- R96, R97: two words that differ only in a read's `D`, or only in the argument of an event that ignores it, are the
same transaction; the canonical encoding of a read has `D` 0. -/
def Obligations.IgnoredBitsDoNotMatter : Prop :=
  (∀ i : Instr, i.wellFormed = true → fieldZ (encode i) = false → fieldW (encode i) = false → fieldR (encode i) ≠ 3#2 →
    fieldD (encode i) = 0) ∧
  ∀ (w w' : Tw20) (u : Volt), fieldZ w = false → fieldZ w' = false → fieldW w = false → fieldW w' = false →
    fieldR w = fieldR w' → fieldO w = fieldO w' →
    (fieldR w ≠ 3#2 → decode w u = decode w' u) ∧
    (fieldR w = 3#2 → fieldO w ∈ [0x01#8, 0x02#8, 0x04#8, 0x06#8, 0x07#8, 0x08#8, 0x09#8] → decode w u = decode w' u) ∧
    (fieldR w = 3#2 → fieldO w = 0x00#8 → pinsetPin (fieldD w) = pinsetPin (fieldD w') →
      pinsetCode (fieldD w) = pinsetCode (fieldD w') → pinsetCode (fieldD w) ≠ 7#3 → decode w u = decode w' u) ∧
    (fieldR w = 3#2 → fieldO w = 0x03#8 → (fieldD w).extractLsb' 0 3 = (fieldD w').extractLsb' 0 3 →
      decode w u = decode w' u)

/-- R98, R111: the reserved encodings are refused as ReservedEncoding in every state, whatever their other bits; and so
is, when it is performed, a SLEEP whose mode is not in `SLEEP_MODES`. -/
def Obligations.ReservedEncodingsAreRefused : Prop :=
  (∀ (s : State) (r : BitVec 2) (w : Bool) (o d : Byte),
    exec (.zReserved r w o d) s = .refused .reservedEncoding ∧
    exec (.eventWrite o d) s = .refused .reservedEncoding ∧
    exec (.pinsetState7 d) s = .refused .reservedEncoding ∧
    exec (.eventReserved0A o d) s = .refused .reservedEncoding ∧
    exec (.eventReserved0C o d) s = .refused .reservedEncoding ∧
    exec (.eventReserved10 o d) s = .refused .reservedEncoding ∧
    exec (.eventReserved20 o d) s = .refused .reservedEncoding ∧
    exec (.eventReserved40 o d) s = .refused .reservedEncoding ∧
    exec (.eventReserved80 o d) s = .refused .reservedEncoding) ∧
  (∀ (s : State) (m : SleepMode), s.init = .ready → m ∉ s.cfg.sleepModes →
    exec (.sleep m) s = .refused .reservedEncoding)

/-- R99: a bus word at an offset at or above its region's span, and every VPORT word without `HAS_VPORT`, is refused as
Unclaimed in every state; with the spans at their defaults every row of such offsets is refused. -/
def Obligations.UnclaimedOffsetsAreRefused : Prop :=
  (∀ (w : Tw20) (u : Volt) (s : State), fieldZ w = false → fieldR w ≠ 3#2 →
    s.cfg.claimsOffset (regionOfField (fieldR w)) (fieldO w).toNat = false →
    exec (decode w u) s = .refused .unclaimed) ∧
  (∀ (s : State) (r : Region) (off v : Byte), s.cfg.defaultLayout = true →
    (∀ row ∈ unclaimedReads r, inRange row.1 row.2.1 off = true → exec (row.2.2 off) s = .refused .unclaimed) ∧
    (∀ row ∈ unclaimedWrites r, inRange row.1 row.2.1 off = true → exec (row.2.2 off v) s = .refused .unclaimed))

/-! ## The step -/

/-- R13, R16: with a TW20 word first at the boundary, a step is `exec` of the instruction it decodes to, in the state
with that word taken away; with a bus access by address or a fetch, it is that input performed; and the word
`withFetchWord` places is the one the next step runs. That inputs wait in `inbox` is the model's choice (log entry 3). -/
def Obligations.StepRunsTheDecodedInstruction : Prop :=
  (∀ (s : State) (w : Tw20) (u : Volt) (rest : List Input), s.inbox = .word w u :: rest →
    step s = exec (decode w u) { s with inbox := rest }) ∧
  (∀ (s : State) (x : Input) (rest : List Input), s.inbox = x :: rest → step s = performInput x { s with inbox := rest }) ∧
  (∀ (s : State) (n w : Nat), step (s.withFetchWord n w) = exec (decode (BitVec.ofNat 20 w) 0) s)

/-- R63, R66, R72: a bus access by absolute address is the bus transaction at its region's offset if it is one byte wide;
of another width it is refused as AccessWidth; a fetch is refused as FetchFromIO; and outside the regions each is refused
as Unclaimed. That a fetch outside the regions is Unclaimed, that the address is judged before the width and a wide access
by its first address, and that these refusals come before the lifecycle's are the model's choice (log entry 16). -/
def Obligations.AccessesByAddress : Prop :=
  ∀ (s : State) (a width : Nat) (v : Byte),
    (∀ r off, s.cfg.locate a = some (r, off) →
      performInput (.load a 1) s = transact (.read r off) s ∧
      performInput (.store a 1 v) s = transact (.write r off v) s ∧
      (width ≠ 1 → performInput (.load a width) s = .refused .accessWidth) ∧
      (width ≠ 1 → performInput (.store a width v) s = .refused .accessWidth) ∧
      performInput (.fetch a) s = .refused .fetchFromIO) ∧
    (s.cfg.locate a = none →
      performInput (.load a width) s = .refused .unclaimed ∧
      performInput (.store a width v) s = .refused .unclaimed ∧
      performInput (.fetch a) s = .refused .unclaimed)

/-! ## Reset, initialization, lifecycle -/

/-- R48: the reset values, in the state after INIT and RESET of any configuration. -/
def Obligations.ResetStateHoldsTheResetValues : Prop :=
  ∀ c : Config, let s := State.resetWith c
    s.cfg = c ∧ s.port.dir = 0 ∧ s.port.out = 0 ∧ s.port.inp = 0 ∧ s.port.intflags = 0 ∧
    (∀ n, s.pinctrl n = 0) ∧
    (∀ i, s.pin i = if c.hasPin i then some .floating else none) ∧
    s.portReq = false ∧ s.ac.ctrla = 0 ∧ s.ac.muxctrla = 0 ∧ s.ac.intctrl = 0 ∧ s.acStatus = 0 ∧
    s.ac.raw = false ∧ s.ac.out = false ∧ s.acReq = false ∧ s.init = .ready

/-- R340, R342, R48: RESET of an initialized or Ready block with a silent environment completes; every register is 0,
every existing pin Floating, both request lines cancelled, `ac.raw` and `ac.out` false, `ac.suspended` recomputed, the
block Ready; `ac.ref`, `ac.chan`, `sleep`, the subscriber lists, the claims and the configuration are unchanged. The trace
gains the Cancel of `PORT_VECTOR`, what the drives to Floating report in ascending pin order, the output signal if `ac.out`
was true (R263), and the Cancel of `AC_VECTOR` if a request was pending. -/
def Obligations.ResetCompletes : Prop :=
  ∀ s : State, s.Inv → s.init = .initialized ∨ s.init = .ready → s.Silent →
    ∃ t, exec .reset s = .next t ∧
      t = { s with port := PortRegs.reset, pins := t.pins, portReq := false, acReq := false, init := .ready
                   ac := { AcState.reset with ref := s.ac.ref, chan := s.ac.chan, suspended := t.ac.suspended }
                   trace := t.trace } ∧
      t.ac.suspended = t.suspendedNow ∧
      (∀ i, t.pin i = if s.cfg.hasPin i then some .floating else none) ∧
      t.trace = s.trace ++ .cancel s.cfg.portVector :: (State.redriveEvents { s with port := PortRegs.reset } 0 pinOrder ++
        (if s.ac.out then s.signals .acOut .acOutput (.acBit false) else []) ++
        (if s.acReq then [.cancel s.cfg.acVector] else []))

/-- R343, R345, R344: INIT of an uninitialized block completes. Where the configuration is sound it claims the regions
with the masks of R155, subscribes the port's hook to each existing pin with the pin's index as its tag, and leaves the
block Initialized; where an address collides, a pin is missing or a hook stands twice on a list it leaves it Failed. It
writes nothing else. The model's choices in it: an overlap of the block's own regions, PORT with VPORT included, is a
collision (log entry 5; R345 says "another peripheral"); INIT also writes the lists of the output-value signal and of the
comparator output, and checks them (log entry 12); a source that two channel entries name fails nothing (log entry 24). -/
def Obligations.InitCompletes : Prop :=
  ∀ s : State, s.init = .uninitialized →
    (s.cfg.initOk = true →
      exec .init s = .next { s with claims := s.cfg.claimTable, subs := s.cfg.subscriptions, init := .initialized }) ∧
    (s.cfg.initOk = false → ∃ t, exec .init s = .next t ∧ t.init = .failed ∧
      t = { s with claims := t.claims, subs := t.subs, init := t.init })

/-- R347, R48: INIT and then RESET bring a block with any register and pin values, a sound configuration and a silent
environment to the reset values. -/
def Obligations.BootReachesTheResetValues : Prop :=
  ∀ s : State, s.init = .uninitialized → s.delivering = [] → s.Silent → s.cfg.initOk = true →
    chanWf s.ac.chan = true → (∀ i, s.cfg.hasPin i = false → s.pin i = none) →
    ∃ t t', exec .init s = .next t ∧ exec .reset t = .next t' ∧
      t'.port = PortRegs.reset ∧ t'.pins = (State.resetWith s.cfg).pins ∧ t'.subs = s.cfg.subscriptions ∧
      t'.claims = s.cfg.claimTable ∧ t'.portReq = false ∧ t'.acReq = false ∧ t'.init = .ready ∧
      t'.ac = { AcState.reset with ref := s.ac.ref, chan := s.ac.chan, suspended := t'.suspendedNow } ∧ t'.Inv

/-- R344: the decoder's verdict comes first; then a Failed block refuses everything as InitFailed; INIT is refused as
AlreadyInitialized while Initialized or Ready, anything but INIT as NotReady while Uninitialized, anything but INIT and
RESET as NotReady while Initialized; everything else is performed, a failing INIT too, which completes and leaves the
block Failed. -/
def Obligations.LifecycleAdmits : Prop :=
  ∀ (w : Tw20) (u : Volt) (s : State),
    (∀ e, requestOfWord s.cfg w u = .error e → exec (decode w u) s = .refused (refusalOf e)) ∧
    (∀ q, requestOfWord s.cfg w u = .ok q →
      (s.init = .failed → exec (decode w u) s = .refused .initFailed) ∧
      (q = .init → s.init = .initialized ∨ s.init = .ready → exec (decode w u) s = .refused .alreadyInitialized) ∧
      (q ≠ .init → s.init = .uninitialized → exec (decode w u) s = .refused .notReady) ∧
      (q ≠ .init → q ≠ .reset → s.init = .initialized → exec (decode w u) s = .refused .notReady) ∧
      ((q = .init ∧ s.init = .uninitialized) ∨ (q = .reset ∧ (s.init = .initialized ∨ s.init = .ready)) ∨
          (q ≠ .init ∧ s.init = .ready) →
        exec (decode w u) s = performAdmitted topHandler q s) ∧
      (q = .init → s.init = .uninitialized → s.cfg.initOk = false →
        ∃ t, exec (decode w u) s = .next t ∧ t.init = .failed))

/-! ## Bus reads -/

/-- R185 with the masks of R155: the words `0x0OO00` are the reads of the PORT, and each of them in an operating block
with the default layout completes, its only effect the read data. -/
def Obligations.PortReadsReturnTheRegisters : Prop :=
  (decode 0x00000 0 = .rdPortDir ∧ decode 0x00100 0 = .rdPortDirset ∧ decode 0x00200 0 = .rdPortDirclr ∧
    decode 0x00300 0 = .rdPortDirtgl ∧ decode 0x00400 0 = .rdPortOut ∧ decode 0x00500 0 = .rdPortOutset ∧
    decode 0x00600 0 = .rdPortOutclr ∧ decode 0x00700 0 = .rdPortOuttgl ∧ decode 0x00800 0 = .rdPortIn ∧
    decode 0x00900 0 = .rdPortIntflags ∧
    (∀ n : PinIx, decode (0x01000 + BitVec.ofNat 20 (n.val * 256)) 0 = pinctrlRead n) ∧
    (∀ row ∈ reservedReads .port, ∀ off : Byte, inRange row.1 row.2.1 off = true →
      decode (0#4 ++ off ++ 0#8) 0 = row.2.2 off)) ∧
  ∀ s : State, s.Operating → s.cfg.defaultLayout = true →
    exec .rdPortDir s = .next (s.emit (.readData s.port.dir)) ∧
    exec .rdPortDirset s = .next (s.emit (.readData 0)) ∧
    exec .rdPortDirclr s = .next (s.emit (.readData 0)) ∧
    exec .rdPortDirtgl s = .next (s.emit (.readData 0)) ∧
    exec .rdPortOut s = .next (s.emit (.readData s.port.out)) ∧
    exec .rdPortOutset s = .next (s.emit (.readData 0)) ∧
    exec .rdPortOutclr s = .next (s.emit (.readData 0)) ∧
    exec .rdPortOuttgl s = .next (s.emit (.readData 0)) ∧
    exec .rdPortIn s = .next (s.emit (.readData s.port.inp)) ∧
    exec .rdPortIntflags s = .next (s.emit (.readData s.port.intflags)) ∧
    (∀ n, exec (pinctrlRead n) s = .next (s.emit (.readData (if s.cfg.hasPin n then s.pinctrl n else 0)))) ∧
    (∀ row ∈ reservedReads .port, ∀ off, inRange row.1 row.2.1 off = true →
      exec (row.2.2 off) s = .next (s.emit (.readData 0)))

/-- R200: the words `0x4OO00` are the reads of the VPORT, and each of them in an operating block that has one completes
and returns the canonical register; without a VPORT it is refused as Unclaimed (R99). -/
def Obligations.VportReadsReturnTheCanonicalRegisters : Prop :=
  (decode 0x40000 0 = .rdVportDir ∧ decode 0x40100 0 = .rdVportOut ∧ decode 0x40200 0 = .rdVportIn ∧
    decode 0x40300 0 = .rdVportIntflags) ∧
  ∀ s : State,
    (s.Operating → s.cfg.hasVport = true → s.cfg.vportSpan = 4 →
      exec .rdVportDir s = .next (s.emit (.readData s.port.dir)) ∧
      exec .rdVportOut s = .next (s.emit (.readData s.port.out)) ∧
      exec .rdVportIn s = .next (s.emit (.readData s.port.inp)) ∧
      exec .rdVportIntflags s = .next (s.emit (.readData s.port.intflags))) ∧
    (s.cfg.hasVport = false →
      exec .rdVportDir s = .refused .unclaimed ∧ exec .rdVportOut s = .refused .unclaimed ∧
      exec .rdVportIn s = .refused .unclaimed ∧ exec .rdVportIntflags s = .refused .unclaimed)

/-- R248: the words `0x8OO00` are the reads of the AC, and each of them in an operating block completes. -/
def Obligations.AcReadsReturnTheRegisters : Prop :=
  (decode 0x80000 0 = .rdAcCtrla ∧ decode 0x80200 0 = .rdAcMuxctrla ∧ decode 0x80600 0 = .rdAcIntctrl ∧
    decode 0x80700 0 = .rdAcStatus ∧
    (∀ row ∈ reservedReads .ac, ∀ off : Byte, inRange row.1 row.2.1 off = true →
      decode (8#4 ++ off ++ 0#8) 0 = row.2.2 off)) ∧
  ∀ s : State, s.Operating → s.cfg.acSpan = 8 →
    exec .rdAcCtrla s = .next (s.emit (.readData s.ac.ctrla)) ∧ s.ac.ctrla.getLsbD 3 = false ∧
    exec .rdAcMuxctrla s = .next (s.emit (.readData s.ac.muxctrla)) ∧
    exec .rdAcIntctrl s = .next (s.emit (.readData s.ac.intctrl)) ∧
    exec .rdAcStatus s = .next (s.emit (.readData
      ((if s.ac.cmp then 1#8 else 0#8) ||| ((if s.ac.out then 1#8 else 0#8) <<< 4)))) ∧
    (∀ row ∈ reservedReads .ac, ∀ off, inRange row.1 row.2.1 off = true →
      exec (row.2.2 off) s = .next (s.emit (.readData 0)))

/-- R68: whatever the state and the configuration, a bus read, by word or by address, that completes changes nothing but the trace, which gains
the one read datum, and repeated it returns the same. -/
def Obligations.BusReadsHaveNoSideEffects : Prop :=
  (∀ (w : Tw20) (u : Volt) (s t : State), fieldZ w = false → fieldW w = false → fieldR w ≠ 3#2 →
    exec (decode w u) s = .next t →
    ∃ b, t = s.emit (.readData b) ∧ exec (decode w u) t = .next (t.emit (.readData b))) ∧
  (∀ (r : Region) (off : Nat) (s t : State), transact (.read r off) s = .next t →
    ∃ b, t = s.emit (.readData b) ∧ transact (.read r off) t = .next (t.emit (.readData b)))

/-- R100, R158: an offset that a region claims and no register has reads 0 and takes a write without effect. The rows of
opcode_table.json outside the default spans are such offsets in a configuration with a larger span. -/
def Obligations.ClaimedUndefinedOffsetsAreNoOps : Prop :=
  ∀ (s : State) (r : Region) (off v : Byte), s.Operating → s.cfg.pinctrlOffset = 0x10 →
    s.cfg.claimsOffset r off.toNat = true →
    (∀ row ∈ reservedReads r ++ unclaimedReads r, inRange row.1 row.2.1 off = true →
      exec (row.2.2 off) s = .next (s.emit (.readData 0))) ∧
    (∀ row ∈ reservedWrites r ++ unclaimedWrites r, inRange row.1 row.2.1 off = true → exec (row.2.2 off v) s = .next s)

/-! ## PORT writes -/

/-- R171 to R174, R201, R186, R191, R195: in an operating block with a silent environment every write of the DIR family
completes; DIR takes the value of the rule, and every existing pin is then in its driven state, with IN, INTFLAGS and the
request line following each change; the trace gains each changed pin's signals, the value signal with the new IN byte and
one Raise per newly set flag, in ascending pin order (R126, R130, R223, R309); nothing else changes. In a sleep mode in
which a gated port's outputs are frozen no pin is driven, and in one in which its inputs do not sense IN and INTFLAGS stay
(`PORT_SLEEP_GATED`, log entry 13). -/
def Obligations.DirWritesRedriveThePort : Prop :=
  ∀ (s : State) (v : Byte), s.Operating → s.Silent → s.cfg.defaultLayout = true →
    (∃ t, exec (.wrPortDir v) s = .next t ∧ Redriven (s.setDir (v &&& s.cfg.pinMask)) t) ∧
    (∃ t, exec (.wrPortDirset v) s = .next t ∧ Redriven (s.setDir (s.port.dir ||| (v &&& s.cfg.pinMask))) t) ∧
    (∃ t, exec (.wrPortDirclr v) s = .next t ∧ Redriven (s.setDir (s.port.dir &&& ~~~(v &&& s.cfg.pinMask))) t) ∧
    (∃ t, exec (.wrPortDirtgl v) s = .next t ∧ Redriven (s.setDir (s.port.dir ^^^ (v &&& s.cfg.pinMask))) t) ∧
    (s.cfg.hasVport = true →
      ∃ t, exec (.wrVportDir v) s = .next t ∧ Redriven (s.setDir (v &&& s.cfg.pinMask)) t)

/-- R175 to R178, R202, R186, R191, R195: the same for the OUT family. -/
def Obligations.OutWritesRedriveThePort : Prop :=
  ∀ (s : State) (v : Byte), s.Operating → s.Silent → s.cfg.defaultLayout = true →
    (∃ t, exec (.wrPortOut v) s = .next t ∧ Redriven (s.setOut (v &&& s.cfg.pinMask)) t) ∧
    (∃ t, exec (.wrPortOutset v) s = .next t ∧ Redriven (s.setOut (s.port.out ||| (v &&& s.cfg.pinMask))) t) ∧
    (∃ t, exec (.wrPortOutclr v) s = .next t ∧ Redriven (s.setOut (s.port.out &&& ~~~(v &&& s.cfg.pinMask))) t) ∧
    (∃ t, exec (.wrPortOuttgl v) s = .next t ∧ Redriven (s.setOut (s.port.out ^^^ (v &&& s.cfg.pinMask))) t) ∧
    (s.cfg.hasVport = true →
      ∃ t, exec (.wrVportOut v) s = .next t ∧ Redriven (s.setOut (v &&& s.cfg.pinMask)) t)

/-- R186: the laws of the six pseudo-registers: after a write the canonical register is the rule's value, and a read of the
pseudo-register returns 0; in an operating block whose environment is silent ("unless a subscriber ... itself writes DIR
or OUT"). -/
def Obligations.PseudoRegisterLaws : Prop :=
  ∀ (s : State) (v : Byte), s.Operating → s.Silent → s.cfg.defaultLayout = true →
    let m := v &&& s.cfg.pinMask
    (∃ t, exec (.wrPortDirset v) s = .next t ∧ t.port.dir = s.port.dir ||| m ∧
      exec .rdPortDirset t = .next (t.emit (.readData 0))) ∧
    (∃ t, exec (.wrPortDirclr v) s = .next t ∧ t.port.dir = s.port.dir &&& ~~~m ∧
      exec .rdPortDirclr t = .next (t.emit (.readData 0))) ∧
    (∃ t, exec (.wrPortDirtgl v) s = .next t ∧ t.port.dir = s.port.dir ^^^ m ∧
      exec .rdPortDirtgl t = .next (t.emit (.readData 0))) ∧
    (∃ t, exec (.wrPortOutset v) s = .next t ∧ t.port.out = s.port.out ||| m ∧
      exec .rdPortOutset t = .next (t.emit (.readData 0))) ∧
    (∃ t, exec (.wrPortOutclr v) s = .next t ∧ t.port.out = s.port.out &&& ~~~m ∧
      exec .rdPortOutclr t = .next (t.emit (.readData 0))) ∧
    (∃ t, exec (.wrPortOuttgl v) s = .next t ∧ t.port.out = s.port.out ^^^ m ∧
      exec .rdPortOuttgl t = .next (t.emit (.readData 0)))

/-- R205, R201 to R204: whatever hooks outside the block do, a write to the VPORT is the write to the canonical
register: the same next state, fault or refusal. -/
def Obligations.VportWritesAreCanonicalWrites : Prop :=
  ∀ (s : State) (v : Byte), s.Operating → s.cfg.hasVport = true → s.cfg.defaultLayout = true →
    exec (.wrVportDir v) s = exec (.wrPortDir v) s ∧
    exec (.wrVportOut v) s = exec (.wrPortOut v) s ∧
    exec (.wrVportIn v) s = exec (.wrPortIn v) s ∧
    exec (.wrVportIntflags v) s = exec (.wrPortIntflags v) s

/-- R70: writing DIRTGL or OUTTGL twice with the same value restores the canonical register. -/
def Obligations.TogglingTwiceRestores : Prop :=
  ∀ (s t t' : State) (v : Byte), s.Operating → s.Silent →
    (exec (.wrPortDirtgl v) s = .next t → exec (.wrPortDirtgl v) t = .next t' → t'.port.dir = s.port.dir) ∧
    (exec (.wrPortOuttgl v) s = .next t → exec (.wrPortOuttgl v) t = .next t' → t'.port.out = s.port.out)

/-- R75, L1.5: in an operating block with a silent environment and a port that senses and drives (R230: always, unless
`PORT_SLEEP_GATED`), once WR DIR 0xFF and WR OUT v have completed, a read of IN returns v masked by the pin-existence
mask. -/
def Obligations.LoopBackReadReturnsOut : Prop :=
  ∀ (s : State) (v : Byte), s.Operating → s.Silent → s.InFollowsPins → s.cfg.defaultLayout = true →
    s.inputsSense = true → s.outputsDrive = true →
    ∃ t t', exec (.wrPortDir 0xFF) s = .next t ∧ exec (.wrPortOut v) t = .next t' ∧
      exec .rdPortIn t' = .next (t'.emit (.readData (v &&& s.cfg.pinMask)))

/-- R179, R182, R203, R249, with their encodings: a write to IN, to VPORT.IN or to a reserved offset does nothing at all. -/
def Obligations.WritesWithoutEffect : Prop :=
  (∀ v : Byte, decode (0x208#12 ++ v) 0 = .wrPortIn v ∧ decode (0x602#12 ++ v) 0 = .wrVportIn v ∧
    (∀ row ∈ reservedWrites .port, ∀ off : Byte, inRange row.1 row.2.1 off = true →
      decode (2#4 ++ off ++ v) 0 = row.2.2 off v) ∧
    (∀ row ∈ reservedWrites .ac, ∀ off : Byte, inRange row.1 row.2.1 off = true →
      decode (0xA#4 ++ off ++ v) 0 = row.2.2 off v)) ∧
  ∀ (s : State) (v : Byte), s.Operating → s.cfg.defaultLayout = true →
    exec (.wrPortIn v) s = .next s ∧
    (s.cfg.hasVport = true → exec (.wrVportIn v) s = .next s) ∧
    (∀ r, ∀ row ∈ reservedWrites r, ∀ off, inRange row.1 row.2.1 off = true → exec (row.2.2 off v) s = .next s)

/-- R180, R204: with the default `LEVEL_REASSERT_ON_CLEAR = false`, a write to INTFLAGS clears exactly the written bits
of existing pins; where the byte becomes 0 the request is cancelled, else it stays as it was; nothing else changes. -/
def Obligations.IntflagsWriteOneToClear : Prop :=
  ∀ (s : State) (v : Byte) (i : Instr), s.Operating → s.cfg.defaultLayout = true → s.cfg.levelReassertOnClear = false →
    i = .wrPortIntflags v ∨ (i = .wrVportIntflags v ∧ s.cfg.hasVport = true) →
    ∃ t, exec i s = .next t ∧ OnlyPortDiffers s t ∧ t.pins = s.pins ∧
      t.port = { s.port with intflags := s.port.intflags &&& ~~~(v &&& s.cfg.pinMask) } ∧
      t.portReq = (if t.port.intflags = 0 then false else s.portReq) ∧
      t.trace = s.trace ++ (if t.port.intflags = 0 then [.cancel s.cfg.portVector] else [])

/-- R180 with `LEVEL_REASSERT_ON_CLEAR = true`, R183: a cleared bit of a LEVEL pin whose IN bit is 0 is set again, and the
request line again agrees with INTFLAGS. That this holds in an asleep gated port too, whether or not its inputs sense, is the
model's choice (`PORT_SLEEP_GATED`, log entry 13). -/
def Obligations.IntflagsLevelReasserts : Prop :=
  ∀ (s : State) (v : Byte), s.Operating → s.cfg.defaultLayout = true → s.cfg.levelReassertOnClear = true →
    ∃ t, exec (.wrPortIntflags v) s = .next t ∧ OnlyPortDiffers s t ∧ t.pins = s.pins ∧
      t.port = { s.port with intflags := t.port.intflags } ∧
      (∀ i, bitAt t.port.intflags i =
        if bitAt (v &&& s.cfg.pinMask) i then decide (s.isc i = .level) && !bitAt s.port.inp i
        else bitAt s.port.intflags i) ∧
      t.portReq = (t.port.intflags != 0)

/-- R181, R183, R184: in an operating block with a silent environment a write to PINnCTRL of an existing pin completes;
it stores all 8 bits, sets the pin's flag at once if the new mode is LEVEL and IN[n] is 0, with a Raise if the flag was
clear, cancels the request of a port without flags else, and drives pin n alone to its driven state. Where a gated port's
outputs are frozen the pin is not driven; that the level check runs all the same in an asleep gated port, whether or not its
inputs sense, is the model's choice (`PORT_SLEEP_GATED`, log entry 13). -/
def Obligations.PinctrlWriteOfAnExistingPin : Prop :=
  ∀ (s : State) (n : PinIx) (v : Byte), s.Operating → s.Silent → s.cfg.defaultLayout = true → s.cfg.hasPin n = true →
    let p := s.setPinctrl n v
    let fires := p.isc n = .level ∧ bitAt s.port.inp n = false
    let c := (p.setIntflags (if fires then withBit s.port.intflags n true else s.port.intflags)).emitAll
      (if fires then (if bitAt s.port.intflags n then [] else [.raise s.cfg.portVector])
       else if s.port.intflags = 0 then [.cancel s.cfg.portVector] else [])
    ∃ t, exec (pinctrlWrite n v) s = .next t ∧ t.pinctrl n = v ∧ (∀ k, k ≠ n → t.pinctrl k = s.pinctrl k) ∧
      if s.outputsDrive then DrivenTo c n (p.drivenState n) t else t = { c with portReq := c.port.intflags != 0 }

/-- R181, R155, R27: a write to PINnCTRL of an absent pin does nothing. -/
def Obligations.PinctrlWriteOfAnAbsentPin : Prop :=
  ∀ (s : State) (n : PinIx) (v : Byte), s.Operating → s.cfg.defaultLayout = true → s.cfg.hasPin n = false →
    exec (pinctrlWrite n v) s = .next s

/-! ## PINSET and pins -/

/-- R108, R124, R222: in an operating block with a silent environment PINSET of an existing pin completes, the pin in the
new state and the port's hook run; the trace gains one DigitalStateChanged signal with the new state per outside hook of
the pin, with that hook's tag, the port's own PinShorted, value signals with the new IN byte and Raise at its place in the
subscription order (R126, R130, R223, R225); PINSET of an absent pin is refused as AbsentPin; PINSET to the current state
changes nothing, whatever the environment. That in an asleep gated port whose inputs do not sense the change leaves IN and INTFLAGS
and raises no value signal, and that PinShorted is forwarded there too, is the model's choice (`PORT_SLEEP_GATED`, log entry
13). -/
def Obligations.PinsetDrivesThePin : Prop :=
  ∀ (s : State) (n : PinIx) (st : PinState), s.Operating →
    (s.cfg.hasPin n = true → s.Silent → ∃ t, exec (pinsetOf st n) s = .next t ∧ DrivenTo s n st t) ∧
    (s.cfg.hasPin n = false → exec (pinsetOf st n) s = .refused .absentPin) ∧
    (s.pin n = some st → exec (pinsetOf st n) s = .next s)

/-- R222, R224, R228: with only the port's hook on the pin, no subscriber of the value signal, and a port that senses (R230:
always, unless `PORT_SLEEP_GATED`), a pin that changes to a
state other than Shorted gives IN its level, sets its flag and issues one Raise if the sense condition holds and the flag
was clear, and does nothing else. -/
def Obligations.PinChangeSetsTheFlagAndRaises : Prop :=
  ∀ (s : State) (n : PinIx) (st : PinState), s.Operating → s.cfg.hasPin n = true →
    s.subscribers (.pin n) = [.port n] → s.subscribers .portValue = [] → s.inputsSense = true →
    s.pin n ≠ some st → st ≠ .shorted →
    let raised := senseHolds (s.isc n) (bitAt s.port.inp n) (pinLevel st) && !bitAt s.port.intflags n
    exec (pinsetOf st n) s = .next { s.setPin n st with
      port := { s.port with
        inp := withBit s.port.inp n (pinLevel st)
        intflags := if raised then withBit s.port.intflags n true else s.port.intflags }
      portReq := s.portReq || raised
      trace := s.trace ++ (if raised then [.raise s.cfg.portVector] else []) }

/-- R225: with only the port's hook on the pin, a pin that enters Shorted makes the block emit PinShorted with the pin's
name and changes neither IN nor INTFLAGS nor the request line. That this holds in an asleep gated port too is the model's
choice (`PORT_SLEEP_GATED`, log entry 13). -/
def Obligations.ShortedIsForwardedAndIgnored : Prop :=
  ∀ (s : State) (n : PinIx), s.Operating → s.cfg.hasPin n = true → s.subscribers (.pin n) = [.port n] →
    s.pin n ≠ some .shorted →
    exec (.pinsetShorted n) s = .next ((s.setPin n .shorted).emit (.pinShorted ⟨s.cfg.portLetter, n⟩))

/-- R192, R121: whatever the state and whatever hooks outside the block do, no transaction changes the state of a pin
that is absent from `PIN_MASK`. -/
def Obligations.AbsentPinsAreNeverDriven : Prop :=
  ∀ (i : Instr) (s t : State) (k : PinIx), exec i s = .next t → s.cfg.hasPin k = false → t.pin k = s.pin k

/-- R25: with a silent environment, a bit of IN changes only by RESET or together with its pin's state. -/
def Obligations.InChangesOnlyWithItsPin : Prop :=
  ∀ (i : Instr) (s t : State) (k : PinIx), s.Inv → s.Silent → exec i s = .next t →
    bitAt t.port.inp k ≠ bitAt s.port.inp k → i = .reset ∨ t.pin k ≠ s.pin k

/-- R26: with a silent environment, a bit of INTFLAGS that is set is cleared only by a write of 1 to it (PORT.INTFLAGS or
VPORT.INTFLAGS) and by RESET. -/
def Obligations.FlagsClearOnlyByAcknowledge : Prop :=
  ∀ (i : Instr) (s t : State) (k : PinIx), i.wellFormed = true → s.Silent → exec i s = .next t →
    bitAt s.port.intflags k = true → bitAt t.port.intflags k = false →
    i = .reset ∨ ∃ v, (i = .wrPortIntflags v ∨ i = .wrVportIntflags v) ∧ bitAt v k = true

/-! ## The signal bus -/

/-- R124, R130, R135: an outside hook after the port's hook on pin n that answers the pin's change by driving the pin to
yet another state ends the run in ReentrantRaise on that pin's bus; one that drives it to the same state is stopped by
the change guard. -/
def Obligations.ReentrantDriveFaults : Prop :=
  ∀ (s : State) (n : PinIx) (st st' : PinState) (hook : Nat) (tag : Int), s.Operating → s.cfg.hasPin n = true →
    s.subscribers (.pin n) = [.port n, .ext hook tag] → s.subscribers .portValue = [] → s.pin n ≠ some st →
    s.env = [[.input (.word (encode (pinsetOf st' n)) 0)]] →
    (st' ≠ st → ∃ kept, exec (pinsetOf st n) s = .fault (.reentrantRaise (.pin n) kept)) ∧
    (st' = st → ∃ t, exec (pinsetOf st n) s = .next t ∧ t.env = [] ∧ DrivenTo { s with env := [] } n st t)

/-- R132, R130: an outside hook that, from inside the delivery of its pin's change, subscribes a hook that is not on the
pin's bus, or unsubscribes one that is (itself, the port's own or another), ends the run in SubscriberListModified on that
bus, whether it is called before the port's own hook or right after it, and whatever hooks come after it on the list. -/
def Obligations.ListChangeDuringDeliveryFaults : Prop :=
  ∀ (s : State) (n : PinIx) (st : PinState) (hook : Nat) (tag : Int) (rest : List Subscriber), s.Operating →
    s.cfg.hasPin n = true → s.subscribers .portValue = [] → s.pin n ≠ some st →
    (s.subscribers (.pin n) = .ext hook tag :: rest ∨ s.subscribers (.pin n) = .port n :: .ext hook tag :: rest) →
    (∀ x : Subscriber, x.hookId ∉ (s.subscribers (.pin n)).map Subscriber.hookId → s.env = [[.subscribe (.pin n) x]] →
      ∃ kept, exec (pinsetOf st n) s = .fault (.subscriberListModified (.pin n) kept)) ∧
    (∀ k : HookId, k ∈ (s.subscribers (.pin n)).map Subscriber.hookId → s.env = [[.unsubscribe (.pin n) k]] →
      ∃ kept, exec (pinsetOf st n) s = .fault (.subscriberListModified (.pin n) kept))

/-- R125, R137, R135: whatever hooks outside the block do, as long as each of them returns, every transaction ends: no
run hangs. What a hook does is the model's own input `env` (log entry 2), and that the one hang is a hook that does not
return, `spin`, is the model's deduction (log entry 11). -/
def Obligations.TransactionsTerminate : Prop :=
  ∀ (i : Instr) (s : State), s.delivering = [] → (∀ r ∈ s.env, Action.spin ∉ r) → exec i s ≠ .fault .hang

/-- R301, R302, R262: raising the pending PORT vector and cancelling it when it is not pending change nothing but the
trace; `updateAcReq()` raises the AC vector exactly where it was not pending and is wanted, cancels it exactly where it was
pending and is not, and else changes nothing. -/
def Obligations.RaiseAndCancelAreIdempotent : Prop :=
  ∀ s : State,
    (s.portReq = true → s.raisePort = s.emit (.raise s.cfg.portVector)) ∧
    (s.portReq = false → s.cancelPort = s.emit (.cancel s.cfg.portVector)) ∧
    (s.acReq = s.acReqWanted → s.updateAcReq = s) ∧
    (s.acReq = false → s.acReqWanted = true →
      s.updateAcReq = State.emit { s with acReq := true } (.raise s.cfg.acVector)) ∧
    (s.acReq = true → s.acReqWanted = false →
      s.updateAcReq = State.emit { s with acReq := false } (.cancel s.cfg.acVector))

/-! ## The comparator -/

/-- R244, R243: a write to CTRLA that leaves ENABLE 0, or leaves the comparator suspended, completes whatever the
environment: it stores the byte under its mask and recomputes `ac.suspended`; STATE, CMP, `ac.raw` and the request line
hold. -/
def Obligations.CtrlaWriteWhileInactive : Prop :=
  ∀ (s : State) (v : Byte), s.Operating → s.cfg.acSpan = 8 →
    let c := s.setCtrla (v &&& 0xF7)
    c.acEnable = false ∨ c.suspendedNow = true →
    exec (.wrAcCtrla v) s = .next (c.setSuspended c.suspendedNow)

/-- R244, R250 to R252, R255, R258, R262: a write to CTRLA that leaves the comparator active, with both selected values
delivered and a silent environment, completes and evaluates at once under the new configuration; a changed output is
published, and a Raise of `AC_VECTOR` follows where R258 and R262 say so. -/
def Obligations.CtrlaWriteEvaluates : Prop :=
  ∀ (s : State) (v : Byte) (vp vn : Volt), s.Operating → s.Silent → s.cfg.acSpan = 8 →
    s.acInput .pos = some vp → s.acInput .neg = some vn →
    let c := s.setCtrla (v &&& 0xF7)
    c.acEnable = true → c.suspendedNow = false →
    ∃ t, exec (.wrAcCtrla v) s = .next t ∧ Evaluated (c.setSuspended false) vp vn t

/-- R245, R243, R242: a write to MUXCTRLA stores the byte under its mask; inactive it does nothing more; active it
evaluates the newly selected channels, with a silent environment completing where both values are there, and ending in
AcChannelIndex or AcInputUndefined where the positive channel is beyond its table or has no value, or, the positive value
being there, the negative one is. -/
def Obligations.MuxctrlaWriteSelectsAndEvaluates : Prop :=
  ∀ (s : State) (v : Byte), s.Operating → s.cfg.acSpan = 8 →
    let c := s.setMuxctrla (v &&& 0x9B)
    (s.acActive = false → exec (.wrAcMuxctrla v) s = .next c) ∧
    (s.acActive = true → s.Silent → ∀ vp vn, c.acInput .pos = some vp → c.acInput .neg = some vn →
      ∃ t, exec (.wrAcMuxctrla v) s = .next t ∧ Evaluated c vp vn t) ∧
    (s.acActive = true → s.cfg.acPosChannels.length ≤ c.acMux .pos →
      exec (.wrAcMuxctrla v) s = .fault (.acChannelIndex .pos (c.acMux .pos) c)) ∧
    (s.acActive = true → ∀ k, c.acSelected .pos = some (.src k) → c.chanValue k = none →
      exec (.wrAcMuxctrla v) s = .fault (.acInputUndefined (.src k) c)) ∧
    (s.acActive = true → c.acSelected .pos = some .ref → c.ac.ref = none →
      exec (.wrAcMuxctrla v) s = .fault (.acInputUndefined .ref c)) ∧
    (s.acActive = true → ∀ vp, c.acInput .pos = some vp →
      (s.cfg.acNegChannels.length ≤ c.acMux .neg →
        exec (.wrAcMuxctrla v) s = .fault (.acChannelIndex .neg (c.acMux .neg) c)) ∧
      (∀ k, c.acSelected .neg = some (.src k) → c.chanValue k = none →
        exec (.wrAcMuxctrla v) s = .fault (.acInputUndefined (.src k) c)) ∧
      (c.acSelected .neg = some .ref → c.ac.ref = none →
        exec (.wrAcMuxctrla v) s = .fault (.acInputUndefined .ref c)))

/-- R246, R262: the word `0xA06XX`, a write to INTCTRL, stores bit 0, the request line becomes STATUS.CMP and the new bit, and a Raise or
Cancel of `AC_VECTOR` is issued exactly where the line changes. -/
def Obligations.IntctrlWriteSetsTheRequest : Prop :=
  (∀ v : Byte, decode (0xA06#12 ++ v) 0 = .wrAcIntctrl v) ∧
  ∀ (s : State) (v : Byte), s.Operating → s.cfg.acSpan = 8 →
    exec (.wrAcIntctrl v) s = .next { s with
      ac := { s.ac with intctrl := v &&& 0x01 }
      acReq := s.ac.cmp && v.getLsbD 0
      trace := s.trace ++
        (if (s.ac.cmp && v.getLsbD 0) && !s.acReq then [.raise s.cfg.acVector]
         else if !(s.ac.cmp && v.getLsbD 0) && s.acReq then [.cancel s.cfg.acVector] else []) }

/-- R247, R262: the word `0xA07XX`, a write to STATUS, clears CMP iff bit 0 is 1, and then cancels a pending request; STATE and everything
else is unchanged. -/
def Obligations.StatusWriteOneToClear : Prop :=
  (∀ v : Byte, decode (0xA07#12 ++ v) 0 = .wrAcStatus v) ∧
  ∀ (s : State) (v : Byte), s.Operating → s.cfg.acSpan = 8 →
    exec (.wrAcStatus v) s = .next (if v.getLsbD 0
      then { s with
        ac := { s.ac with cmp := false }
        acReq := false
        trace := s.trace ++ (if s.acReq then [.cancel s.cfg.acVector] else []) }
      else s)

/-- R112, R254, R255: ACHAN stores the value; for a source no multiplexer selects, or while the comparator is inactive,
it does nothing more; else it evaluates. -/
def Obligations.AchanStoresAndEvaluates : Prop :=
  ∀ (s : State) (k : SourceId) (u : Volt), s.Operating →
    let c := s.setChan k u
    c.chanValue k = some u ∧ (∀ j, j ≠ k → c.chanValue j = s.chanValue j) ∧
    (s.selects (.src k) = false ∨ s.acActive = false → exec (.achan k u) s = .next c) ∧
    (s.selects (.src k) = true → s.acActive = true → s.Silent →
      ∀ vp vn, c.acInput .pos = some vp → c.acInput .neg = some vn →
      ∃ t, exec (.achan k u) s = .next t ∧ Evaluated c vp vn t)

/-- R113, R253, R255: AREF stores the reference; where no multiplexer selects `Ref`, or while the comparator is inactive,
it does nothing more; else it evaluates. -/
def Obligations.ArefStoresAndEvaluates : Prop :=
  ∀ (s : State) (u : Volt), s.Operating →
    let c := s.setRef u
    (s.selects .ref = false ∨ s.acActive = false → exec (.aref u) s = .next c) ∧
    (s.selects .ref = true → s.acActive = true → s.Silent →
      ∀ vp vn, c.acInput .pos = some vp → c.acInput .neg = some vn →
      ∃ t, exec (.aref u) s = .next t ∧ Evaluated c vp vn t)

/-- R256, R258, R262: with one hook of another peripheral on the output signal and a silent environment, a reference that
changes the output of an active comparator makes it publish the new output to that hook, and then issue a Raise of
`AC_VECTOR` if the transition qualifies, the interrupt is enabled and no request is pending. -/
def Obligations.OutputChangeIsPublishedAndRaises : Prop :=
  ∀ (s : State) (u vp vn : Volt) (hook : Nat) (tag : Int), s.Operating → s.Silent →
    s.subscribers .acOut = [.ext hook tag] → s.selects .ref = true → s.acActive = true →
    let c := s.setRef u
    c.acInput .pos = some vp → c.acInput .neg = some vn → c.outAfter vp vn ≠ s.ac.out →
    ∃ t, exec (.aref u) s = .next t ∧ Evaluated c vp vn t ∧
      t.trace = s.trace ++ .signal .acOut .acOutput (.acBit (c.outAfter vp vn)) tag ::
        (if qualifies s.acIntmode s.ac.out (c.outAfter vp vn) && s.acIntEnable && !s.acReq
         then [.raise s.cfg.acVector] else [])

/-- R111, R260: SLEEP with a mode of the device enters it and recomputes `ac.suspended`; where that suspends the
comparator or leaves it as it was, nothing more happens; where it ends a suspension, an enabled comparator evaluates. That a gated port is left alone too is the model's choice
(`PORT_SLEEP_GATED`, log entry 13). -/
def Obligations.SleepSuspendsOrResumes : Prop :=
  ∀ (s : State) (m : SleepMode), s.Operating → m ∈ s.cfg.sleepModes →
    let b := s.cfg.suspends m s.acRunstdby
    let c := { s with sleep := some m, ac := { s.ac with suspended := b } }
    (s.ac.suspended = false ∨ b = true ∨ s.acEnable = false → exec (.sleep m) s = .next c) ∧
    (s.ac.suspended = true → b = false → s.acEnable = true → s.Silent →
      ∀ vp vn, s.acInput .pos = some vp → s.acInput .neg = some vn →
      ∃ t, exec (.sleep m) s = .next t ∧ Evaluated c vp vn t)

/-- R111, R261: WAKE ends the sleep; a comparator that was suspended and is enabled evaluates; WAKE while awake changes
nothing. That a gated port is left alone too, its pins neither driven nor sampled, is the model's choice (`PORT_SLEEP_GATED`,
log entry 13). -/
def Obligations.WakeResumesAndEvaluates : Prop :=
  ∀ s : State, s.Operating →
    let c := { s with sleep := none, ac := { s.ac with suspended := false } }
    (s.ac.suspended = false ∨ s.acEnable = false → exec .wake s = .next c) ∧
    (s.sleep = none → exec .wake s = .next s) ∧
    (s.ac.suspended = true → s.acEnable = true → s.Silent →
      ∀ vp vn, s.acInput .pos = some vp → s.acInput .neg = some vn →
      ∃ t, exec .wake s = .next t ∧ Evaluated c vp vn t)

/-- R114, R257: the control requests reply and change no state: GET_AC_OUT the output as a byte, GET_AC_REF the reference
or AcInputUndefined where none was delivered, GET_PORT_SIGNAL the handle of the port's output-value signal. R49 names a
ReadData event for control-request replies; that a value in volts and a handle, which are no bytes, are the events
`readVolt` and `readHandle` is the model's choice (log entry 14). -/
def Obligations.ControlRequestsReply : Prop :=
  ∀ s : State, s.init = .ready →
    exec .getAcOut s = .next (s.emit (.readData (if s.ac.out then 1 else 0))) ∧
    (∀ u, s.ac.ref = some u → exec .getAcRef s = .next (s.emit (.readVolt u))) ∧
    (s.ac.ref = none → exec .getAcRef s = .fault (.acInputUndefined .ref s)) ∧
    exec .getPortSignal s = .next (s.emit (.readHandle .portValue))

/-- R258, R259: with a silent environment STATUS.CMP is set only by a transaction that changed `ac.out`. -/
def Obligations.CmpIsSetOnlyByATransition : Prop :=
  ∀ (i : Instr) (s t : State), s.Silent → exec i s = .next t → s.ac.cmp = false → t.ac.cmp = true →
    t.ac.out ≠ s.ac.out

/-! ## Noninterference and invariants -/

/-- R230, R43, R4: with a silent environment, a transaction of the AC (its bus words, SLEEP, WAKE, ACHAN, AREF,
GET_AC_OUT, GET_AC_REF) leaves the PORT's registers, the pins and the PORT request line as they were, and one of the PORT
(PORT and VPORT words, PINSET, GET_PORT_SIGNAL) leaves the comparator, its request line and `sleep` as they were. R230 and
R43 say so of a port that is not gated; that SLEEP and WAKE leave a gated port's registers, pins and request line as they
were, driving and sampling nothing, is the model's choice (`PORT_SLEEP_GATED`, log entry 13). -/
def Obligations.PortAndComparatorDoNotInterfere : Prop :=
  ∀ (w : Tw20) (u : Volt) (s t : State), s.Silent → fieldZ w = false → exec (decode w u) s = .next t →
    (fieldR w = 2#2 ∨ (fieldR w = 3#2 ∧ 0x03 ≤ (fieldO w).toNat ∧ (fieldO w).toNat ≤ 0x08) →
      t.port = s.port ∧ t.pins = s.pins ∧ t.portReq = s.portReq) ∧
    (fieldR w = 0#2 ∨ fieldR w = 1#2 ∨ (fieldR w = 3#2 ∧ fieldO w ∈ [0x00#8, 0x09#8]) →
      t.ac = s.ac ∧ t.acReq = s.acReq ∧ t.sleep = s.sleep)

/-- R8, R44: whatever hooks outside the block do, no transaction changes the configuration, none but INIT changes the
claim table, and the trace only grows. -/
def Obligations.ConfigurationClaimsAndTracePersist : Prop :=
  ∀ (i : Instr) (s t : State), exec i s = .next t →
    t.cfg = s.cfg ∧ (i ≠ .init → t.claims = s.claims) ∧ ∃ l, t.trace = s.trace ++ l

/-- The invariant of the block holds at reset: at `State.reset`, whose configuration is the model's choice (log entry 1),
and at the reset state of every configuration that INIT accepts. -/
def Obligations.ResetHasTheInvariant : Prop :=
  State.reset.Inv ∧ ∀ c : Config, c.initOk = true → (State.resetWith c).Inv

/-- R30, R31, R155, R262, R43, R35, R220: from every state that has the invariant, in every lifecycle state and whatever
hooks outside the block do, every step that answers a next state keeps it. -/
def Obligations.EveryStepKeepsTheInvariant : Prop :=
  ∀ s t : State, s.Inv → step s = .next t → t.Inv

/-- R25, R195, R221, R225, R230: with a silent environment and a port that no sleep mode gates, in a Ready block every step
keeps IN equal to the logic level of every pin that is not Shorted, and RESET brings it about. -/
def Obligations.EveryStepKeepsInFollowingThePins : Prop :=
  ∀ s t : State, s.Inv → s.Silent → s.cfg.portSleepGated = false → (s.init = .ready → s.InFollowsPins) →
    step s = .next t → t.Silent ∧ (t.init = .ready → t.InFollowsPins)

/-! ## Faults of an evaluation, subscriber lists, sleep and the port -/

/-- R242, R254, R255: every other form that evaluates ends in the fault of R242 where a selected channel is beyond its table
or has no value, the positive channel looked at first: a CTRLA write that leaves the comparator active, ACHAN and AREF of a
selected channel, a SLEEP that ends a suspension, and WAKE. The fault keeps the state in which the evaluation began. -/
def Obligations.EvaluatingFormsEndInTheirInputFault : Prop :=
  ∀ (s : State) (v : Byte) (k : SourceId) (u : Volt) (m : SleepMode) (f : Fault), s.Operating →
    (let c := (s.setCtrla (v &&& 0xF7)).setSuspended false
     s.cfg.acSpan = 8 → c.acEnable = true → (s.setCtrla (v &&& 0xF7)).suspendedNow = false → c.evalFault = some f →
      exec (.wrAcCtrla v) s = .fault f) ∧
    (s.acActive = true → s.selects (.src k) = true → (s.setChan k u).evalFault = some f →
      exec (.achan k u) s = .fault f) ∧
    (s.acActive = true → s.selects .ref = true → (s.setRef u).evalFault = some f → exec (.aref u) s = .fault f) ∧
    (s.ac.suspended = true → s.acEnable = true →
      (let c := { s with sleep := some m, ac := { s.ac with suspended := false } }
       m ∈ s.cfg.sleepModes → s.cfg.suspends m s.acRunstdby = false → c.evalFault = some f →
        exec (.sleep m) s = .fault f) ∧
      (let c := { s with sleep := none, ac := { s.ac with suspended := false } }
       c.evalFault = some f → exec .wake s = .fault f))

/-- R35, R129, R132: a successful INIT puts on each existing pin's list the port's hook with the pin's index as its tag and
the hooks of `PIN_SUBSCRIBERS(i)` before and after it, in their order; and no other transaction that answers a next state
changes any subscriber list, whatever hooks outside the block do. -/
def Obligations.SubscriberListsChangeOnlyAtInit : Prop :=
  (∀ (s : State) (i : PinIx), s.init = .uninitialized → s.cfg.initOk = true → s.cfg.hasPin i = true →
    ∃ t, exec .init s = .next t ∧ t.subscribers (.pin i) =
      s.cfg.pinSubscribers[i].before.map (fun e => .ext e.hook e.tag) ++
        .port i :: s.cfg.pinSubscribers[i].after.map (fun e => .ext e.hook e.tag)) ∧
  ∀ (i : Instr) (s t : State), s.delivering = [] → i ≠ .init → exec i s = .next t → t.subs = s.subs

/-- R230, R111, R43: with `PORT_SLEEP_GATED = false` and a silent environment, a PORT or VPORT word and a PINSET do the same
in every sleep mode as while awake. -/
def Obligations.UngatedPortIgnoresSleep : Prop :=
  ∀ (w : Tw20) (u : Volt) (s t : State) (mode : Option SleepMode), s.Silent → s.cfg.portSleepGated = false →
    fieldZ w = false → fieldR w = 0#2 ∨ fieldR w = 1#2 ∨ (fieldR w = 3#2 ∧ fieldO w = 0x00#8) →
    exec (decode w u) s = .next t → exec (decode w u) { s with sleep := mode } = .next { t with sleep := mode }
end

