-- ==== Sys2Proof/Laws/State.lean ====
section
/-! SUPPORT. One lemma per field per update, each true by rfl, and what each derived read (a pin, a sense mode,
a driven state) becomes under each update, so that no proof unfolds a record update. -/

namespace Sys2Proof.Machine

open Sys2Proof

/-! ### `emit` -/

@[simp] theorem State.emit_cfg (s : State) (e : Event) : (s.emit e).cfg = s.cfg := rfl
@[simp] theorem State.emit_port (s : State) (e : Event) : (s.emit e).port = s.port := rfl
@[simp] theorem State.emit_pins (s : State) (e : Event) : (s.emit e).pins = s.pins := rfl
@[simp] theorem State.emit_subs (s : State) (e : Event) : (s.emit e).subs = s.subs := rfl
@[simp] theorem State.emit_delivering (s : State) (e : Event) : (s.emit e).delivering = s.delivering := rfl
@[simp] theorem State.emit_portReq (s : State) (e : Event) : (s.emit e).portReq = s.portReq := rfl
@[simp] theorem State.emit_ac (s : State) (e : Event) : (s.emit e).ac = s.ac := rfl
@[simp] theorem State.emit_acReq (s : State) (e : Event) : (s.emit e).acReq = s.acReq := rfl
@[simp] theorem State.emit_sleep (s : State) (e : Event) : (s.emit e).sleep = s.sleep := rfl
@[simp] theorem State.emit_claims (s : State) (e : Event) : (s.emit e).claims = s.claims := rfl
@[simp] theorem State.emit_init (s : State) (e : Event) : (s.emit e).init = s.init := rfl
@[simp] theorem State.emit_trace (s : State) (e : Event) : (s.emit e).trace = s.trace ++ [e] := rfl
@[simp] theorem State.emit_env (s : State) (e : Event) : (s.emit e).env = s.env := rfl
@[simp] theorem State.emit_inbox (s : State) (e : Event) : (s.emit e).inbox = s.inbox := rfl
@[simp] theorem State.emit_pin (s : State) (e : Event) (n : PinIx) : (s.emit e).pin n = s.pin n := rfl
@[simp] theorem State.emit_pinctrl (s : State) (e : Event) (n : PinIx) : (s.emit e).pinctrl n = s.pinctrl n := rfl
@[simp] theorem State.emit_isc (s : State) (e : Event) (n : PinIx) : (s.emit e).isc n = s.isc n := rfl
@[simp] theorem State.emit_pullupen (s : State) (e : Event) (n : PinIx) : (s.emit e).pullupen n = s.pullupen n := rfl
@[simp] theorem State.emit_subscribers (s : State) (e : Event) (bus : BusId) :
    (s.emit e).subscribers bus = s.subscribers bus := rfl
@[simp] theorem State.emit_suspendedNow (s : State) (e : Event) : (s.emit e).suspendedNow = s.suspendedNow := rfl
@[simp] theorem State.emit_acActive (s : State) (e : Event) : (s.emit e).acActive = s.acActive := rfl
@[simp] theorem State.emit_acReqWanted (s : State) (e : Event) : (s.emit e).acReqWanted = s.acReqWanted := rfl
@[simp] theorem State.emit_acEnable (s : State) (e : Event) : (s.emit e).acEnable = s.acEnable := rfl
@[simp] theorem State.emit_acIntmode (s : State) (e : Event) : (s.emit e).acIntmode = s.acIntmode := rfl
@[simp] theorem State.emit_acInvert (s : State) (e : Event) : (s.emit e).acInvert = s.acInvert := rfl
@[simp] theorem State.emit_acIntEnable (s : State) (e : Event) : (s.emit e).acIntEnable = s.acIntEnable := rfl
@[simp] theorem State.emit_hysteresisWidth (s : State) (e : Event) :
    (s.emit e).hysteresisWidth = s.hysteresisWidth := rfl
@[simp] theorem State.emit_drivenState (s : State) (e : Event) (n : PinIx) :
    (s.emit e).drivenState n = s.drivenState n := rfl

/-! ### `raisePort` -/

@[simp] theorem State.raisePort_cfg (s : State) : s.raisePort.cfg = s.cfg := rfl
@[simp] theorem State.raisePort_port (s : State) : s.raisePort.port = s.port := rfl
@[simp] theorem State.raisePort_pins (s : State) : s.raisePort.pins = s.pins := rfl
@[simp] theorem State.raisePort_subs (s : State) : s.raisePort.subs = s.subs := rfl
@[simp] theorem State.raisePort_delivering (s : State) : s.raisePort.delivering = s.delivering := rfl
@[simp] theorem State.raisePort_portReq (s : State) : s.raisePort.portReq = true := rfl
@[simp] theorem State.raisePort_ac (s : State) : s.raisePort.ac = s.ac := rfl
@[simp] theorem State.raisePort_acReq (s : State) : s.raisePort.acReq = s.acReq := rfl
@[simp] theorem State.raisePort_sleep (s : State) : s.raisePort.sleep = s.sleep := rfl
@[simp] theorem State.raisePort_claims (s : State) : s.raisePort.claims = s.claims := rfl
@[simp] theorem State.raisePort_init (s : State) : s.raisePort.init = s.init := rfl
@[simp] theorem State.raisePort_trace (s : State) : s.raisePort.trace = s.trace ++ [.raise s.cfg.portVector] := rfl
@[simp] theorem State.raisePort_env (s : State) : s.raisePort.env = s.env := rfl
@[simp] theorem State.raisePort_inbox (s : State) : s.raisePort.inbox = s.inbox := rfl
@[simp] theorem State.raisePort_pin (s : State) (n : PinIx) : s.raisePort.pin n = s.pin n := rfl
@[simp] theorem State.raisePort_pinctrl (s : State) (n : PinIx) : s.raisePort.pinctrl n = s.pinctrl n := rfl
@[simp] theorem State.raisePort_isc (s : State) (n : PinIx) : s.raisePort.isc n = s.isc n := rfl
@[simp] theorem State.raisePort_pullupen (s : State) (n : PinIx) : s.raisePort.pullupen n = s.pullupen n := rfl
@[simp] theorem State.raisePort_subscribers (s : State) (bus : BusId) :
    s.raisePort.subscribers bus = s.subscribers bus := rfl
@[simp] theorem State.raisePort_suspendedNow (s : State) : s.raisePort.suspendedNow = s.suspendedNow := rfl
@[simp] theorem State.raisePort_acActive (s : State) : s.raisePort.acActive = s.acActive := rfl
@[simp] theorem State.raisePort_acReqWanted (s : State) : s.raisePort.acReqWanted = s.acReqWanted := rfl
@[simp] theorem State.raisePort_acEnable (s : State) : s.raisePort.acEnable = s.acEnable := rfl
@[simp] theorem State.raisePort_acIntmode (s : State) : s.raisePort.acIntmode = s.acIntmode := rfl
@[simp] theorem State.raisePort_acInvert (s : State) : s.raisePort.acInvert = s.acInvert := rfl
@[simp] theorem State.raisePort_acIntEnable (s : State) : s.raisePort.acIntEnable = s.acIntEnable := rfl
@[simp] theorem State.raisePort_hysteresisWidth (s : State) : s.raisePort.hysteresisWidth = s.hysteresisWidth := rfl
@[simp] theorem State.raisePort_drivenState (s : State) (n : PinIx) : s.raisePort.drivenState n = s.drivenState n := rfl

/-! ### `cancelPort` -/

@[simp] theorem State.cancelPort_cfg (s : State) : s.cancelPort.cfg = s.cfg := rfl
@[simp] theorem State.cancelPort_port (s : State) : s.cancelPort.port = s.port := rfl
@[simp] theorem State.cancelPort_pins (s : State) : s.cancelPort.pins = s.pins := rfl
@[simp] theorem State.cancelPort_subs (s : State) : s.cancelPort.subs = s.subs := rfl
@[simp] theorem State.cancelPort_delivering (s : State) : s.cancelPort.delivering = s.delivering := rfl
@[simp] theorem State.cancelPort_portReq (s : State) : s.cancelPort.portReq = false := rfl
@[simp] theorem State.cancelPort_ac (s : State) : s.cancelPort.ac = s.ac := rfl
@[simp] theorem State.cancelPort_acReq (s : State) : s.cancelPort.acReq = s.acReq := rfl
@[simp] theorem State.cancelPort_sleep (s : State) : s.cancelPort.sleep = s.sleep := rfl
@[simp] theorem State.cancelPort_claims (s : State) : s.cancelPort.claims = s.claims := rfl
@[simp] theorem State.cancelPort_init (s : State) : s.cancelPort.init = s.init := rfl
@[simp] theorem State.cancelPort_trace (s : State) : s.cancelPort.trace = s.trace ++ [.cancel s.cfg.portVector] := rfl
@[simp] theorem State.cancelPort_env (s : State) : s.cancelPort.env = s.env := rfl
@[simp] theorem State.cancelPort_inbox (s : State) : s.cancelPort.inbox = s.inbox := rfl
@[simp] theorem State.cancelPort_pin (s : State) (n : PinIx) : s.cancelPort.pin n = s.pin n := rfl
@[simp] theorem State.cancelPort_pinctrl (s : State) (n : PinIx) : s.cancelPort.pinctrl n = s.pinctrl n := rfl
@[simp] theorem State.cancelPort_isc (s : State) (n : PinIx) : s.cancelPort.isc n = s.isc n := rfl
@[simp] theorem State.cancelPort_pullupen (s : State) (n : PinIx) : s.cancelPort.pullupen n = s.pullupen n := rfl
@[simp] theorem State.cancelPort_subscribers (s : State) (bus : BusId) :
    s.cancelPort.subscribers bus = s.subscribers bus := rfl
@[simp] theorem State.cancelPort_suspendedNow (s : State) : s.cancelPort.suspendedNow = s.suspendedNow := rfl
@[simp] theorem State.cancelPort_acActive (s : State) : s.cancelPort.acActive = s.acActive := rfl
@[simp] theorem State.cancelPort_acReqWanted (s : State) : s.cancelPort.acReqWanted = s.acReqWanted := rfl
@[simp] theorem State.cancelPort_acEnable (s : State) : s.cancelPort.acEnable = s.acEnable := rfl
@[simp] theorem State.cancelPort_acIntmode (s : State) : s.cancelPort.acIntmode = s.acIntmode := rfl
@[simp] theorem State.cancelPort_acInvert (s : State) : s.cancelPort.acInvert = s.acInvert := rfl
@[simp] theorem State.cancelPort_acIntEnable (s : State) : s.cancelPort.acIntEnable = s.acIntEnable := rfl
@[simp] theorem State.cancelPort_hysteresisWidth (s : State) : s.cancelPort.hysteresisWidth = s.hysteresisWidth := rfl
@[simp] theorem State.cancelPort_drivenState (s : State) (n : PinIx) :
    s.cancelPort.drivenState n = s.drivenState n := rfl

/-! ### `setDir` -/

@[simp] theorem State.setDir_cfg (s : State) (v : Byte) : (s.setDir v).cfg = s.cfg := rfl
@[simp] theorem State.setDir_port_dir (s : State) (v : Byte) : (s.setDir v).port.dir = v := rfl
@[simp] theorem State.setDir_port_out (s : State) (v : Byte) : (s.setDir v).port.out = s.port.out := rfl
@[simp] theorem State.setDir_port_inp (s : State) (v : Byte) : (s.setDir v).port.inp = s.port.inp := rfl
@[simp] theorem State.setDir_port_intflags (s : State) (v : Byte) : (s.setDir v).port.intflags = s.port.intflags := rfl
@[simp] theorem State.setDir_port_pinctrl (s : State) (v : Byte) : (s.setDir v).port.pinctrl = s.port.pinctrl := rfl
@[simp] theorem State.setDir_pins (s : State) (v : Byte) : (s.setDir v).pins = s.pins := rfl
@[simp] theorem State.setDir_subs (s : State) (v : Byte) : (s.setDir v).subs = s.subs := rfl
@[simp] theorem State.setDir_delivering (s : State) (v : Byte) : (s.setDir v).delivering = s.delivering := rfl
@[simp] theorem State.setDir_portReq (s : State) (v : Byte) : (s.setDir v).portReq = s.portReq := rfl
@[simp] theorem State.setDir_ac (s : State) (v : Byte) : (s.setDir v).ac = s.ac := rfl
@[simp] theorem State.setDir_acReq (s : State) (v : Byte) : (s.setDir v).acReq = s.acReq := rfl
@[simp] theorem State.setDir_sleep (s : State) (v : Byte) : (s.setDir v).sleep = s.sleep := rfl
@[simp] theorem State.setDir_claims (s : State) (v : Byte) : (s.setDir v).claims = s.claims := rfl
@[simp] theorem State.setDir_init (s : State) (v : Byte) : (s.setDir v).init = s.init := rfl
@[simp] theorem State.setDir_trace (s : State) (v : Byte) : (s.setDir v).trace = s.trace := rfl
@[simp] theorem State.setDir_env (s : State) (v : Byte) : (s.setDir v).env = s.env := rfl
@[simp] theorem State.setDir_inbox (s : State) (v : Byte) : (s.setDir v).inbox = s.inbox := rfl
@[simp] theorem State.setDir_pin (s : State) (v : Byte) (n : PinIx) : (s.setDir v).pin n = s.pin n := rfl
@[simp] theorem State.setDir_pinctrl (s : State) (v : Byte) (n : PinIx) : (s.setDir v).pinctrl n = s.pinctrl n := rfl
@[simp] theorem State.setDir_isc (s : State) (v : Byte) (n : PinIx) : (s.setDir v).isc n = s.isc n := rfl
@[simp] theorem State.setDir_pullupen (s : State) (v : Byte) (n : PinIx) : (s.setDir v).pullupen n = s.pullupen n := rfl
@[simp] theorem State.setDir_subscribers (s : State) (v : Byte) (bus : BusId) :
    (s.setDir v).subscribers bus = s.subscribers bus := rfl
@[simp] theorem State.setDir_suspendedNow (s : State) (v : Byte) : (s.setDir v).suspendedNow = s.suspendedNow := rfl
@[simp] theorem State.setDir_acActive (s : State) (v : Byte) : (s.setDir v).acActive = s.acActive := rfl
@[simp] theorem State.setDir_acReqWanted (s : State) (v : Byte) : (s.setDir v).acReqWanted = s.acReqWanted := rfl
@[simp] theorem State.setDir_acEnable (s : State) (v : Byte) : (s.setDir v).acEnable = s.acEnable := rfl
@[simp] theorem State.setDir_acIntmode (s : State) (v : Byte) : (s.setDir v).acIntmode = s.acIntmode := rfl
@[simp] theorem State.setDir_acInvert (s : State) (v : Byte) : (s.setDir v).acInvert = s.acInvert := rfl
@[simp] theorem State.setDir_acIntEnable (s : State) (v : Byte) : (s.setDir v).acIntEnable = s.acIntEnable := rfl
@[simp] theorem State.setDir_hysteresisWidth (s : State) (v : Byte) :
    (s.setDir v).hysteresisWidth = s.hysteresisWidth := rfl

/-! ### `setOut` -/

@[simp] theorem State.setOut_cfg (s : State) (v : Byte) : (s.setOut v).cfg = s.cfg := rfl
@[simp] theorem State.setOut_port_dir (s : State) (v : Byte) : (s.setOut v).port.dir = s.port.dir := rfl
@[simp] theorem State.setOut_port_out (s : State) (v : Byte) : (s.setOut v).port.out = v := rfl
@[simp] theorem State.setOut_port_inp (s : State) (v : Byte) : (s.setOut v).port.inp = s.port.inp := rfl
@[simp] theorem State.setOut_port_intflags (s : State) (v : Byte) : (s.setOut v).port.intflags = s.port.intflags := rfl
@[simp] theorem State.setOut_port_pinctrl (s : State) (v : Byte) : (s.setOut v).port.pinctrl = s.port.pinctrl := rfl
@[simp] theorem State.setOut_pins (s : State) (v : Byte) : (s.setOut v).pins = s.pins := rfl
@[simp] theorem State.setOut_subs (s : State) (v : Byte) : (s.setOut v).subs = s.subs := rfl
@[simp] theorem State.setOut_delivering (s : State) (v : Byte) : (s.setOut v).delivering = s.delivering := rfl
@[simp] theorem State.setOut_portReq (s : State) (v : Byte) : (s.setOut v).portReq = s.portReq := rfl
@[simp] theorem State.setOut_ac (s : State) (v : Byte) : (s.setOut v).ac = s.ac := rfl
@[simp] theorem State.setOut_acReq (s : State) (v : Byte) : (s.setOut v).acReq = s.acReq := rfl
@[simp] theorem State.setOut_sleep (s : State) (v : Byte) : (s.setOut v).sleep = s.sleep := rfl
@[simp] theorem State.setOut_claims (s : State) (v : Byte) : (s.setOut v).claims = s.claims := rfl
@[simp] theorem State.setOut_init (s : State) (v : Byte) : (s.setOut v).init = s.init := rfl
@[simp] theorem State.setOut_trace (s : State) (v : Byte) : (s.setOut v).trace = s.trace := rfl
@[simp] theorem State.setOut_env (s : State) (v : Byte) : (s.setOut v).env = s.env := rfl
@[simp] theorem State.setOut_inbox (s : State) (v : Byte) : (s.setOut v).inbox = s.inbox := rfl
@[simp] theorem State.setOut_pin (s : State) (v : Byte) (n : PinIx) : (s.setOut v).pin n = s.pin n := rfl
@[simp] theorem State.setOut_pinctrl (s : State) (v : Byte) (n : PinIx) : (s.setOut v).pinctrl n = s.pinctrl n := rfl
@[simp] theorem State.setOut_isc (s : State) (v : Byte) (n : PinIx) : (s.setOut v).isc n = s.isc n := rfl
@[simp] theorem State.setOut_pullupen (s : State) (v : Byte) (n : PinIx) : (s.setOut v).pullupen n = s.pullupen n := rfl
@[simp] theorem State.setOut_subscribers (s : State) (v : Byte) (bus : BusId) :
    (s.setOut v).subscribers bus = s.subscribers bus := rfl
@[simp] theorem State.setOut_suspendedNow (s : State) (v : Byte) : (s.setOut v).suspendedNow = s.suspendedNow := rfl
@[simp] theorem State.setOut_acActive (s : State) (v : Byte) : (s.setOut v).acActive = s.acActive := rfl
@[simp] theorem State.setOut_acReqWanted (s : State) (v : Byte) : (s.setOut v).acReqWanted = s.acReqWanted := rfl
@[simp] theorem State.setOut_acEnable (s : State) (v : Byte) : (s.setOut v).acEnable = s.acEnable := rfl
@[simp] theorem State.setOut_acIntmode (s : State) (v : Byte) : (s.setOut v).acIntmode = s.acIntmode := rfl
@[simp] theorem State.setOut_acInvert (s : State) (v : Byte) : (s.setOut v).acInvert = s.acInvert := rfl
@[simp] theorem State.setOut_acIntEnable (s : State) (v : Byte) : (s.setOut v).acIntEnable = s.acIntEnable := rfl
@[simp] theorem State.setOut_hysteresisWidth (s : State) (v : Byte) :
    (s.setOut v).hysteresisWidth = s.hysteresisWidth := rfl

/-! ### `setIn` -/

@[simp] theorem State.setIn_cfg (s : State) (v : Byte) : (s.setIn v).cfg = s.cfg := rfl
@[simp] theorem State.setIn_port_dir (s : State) (v : Byte) : (s.setIn v).port.dir = s.port.dir := rfl
@[simp] theorem State.setIn_port_out (s : State) (v : Byte) : (s.setIn v).port.out = s.port.out := rfl
@[simp] theorem State.setIn_port_inp (s : State) (v : Byte) : (s.setIn v).port.inp = v := rfl
@[simp] theorem State.setIn_port_intflags (s : State) (v : Byte) : (s.setIn v).port.intflags = s.port.intflags := rfl
@[simp] theorem State.setIn_port_pinctrl (s : State) (v : Byte) : (s.setIn v).port.pinctrl = s.port.pinctrl := rfl
@[simp] theorem State.setIn_pins (s : State) (v : Byte) : (s.setIn v).pins = s.pins := rfl
@[simp] theorem State.setIn_subs (s : State) (v : Byte) : (s.setIn v).subs = s.subs := rfl
@[simp] theorem State.setIn_delivering (s : State) (v : Byte) : (s.setIn v).delivering = s.delivering := rfl
@[simp] theorem State.setIn_portReq (s : State) (v : Byte) : (s.setIn v).portReq = s.portReq := rfl
@[simp] theorem State.setIn_ac (s : State) (v : Byte) : (s.setIn v).ac = s.ac := rfl
@[simp] theorem State.setIn_acReq (s : State) (v : Byte) : (s.setIn v).acReq = s.acReq := rfl
@[simp] theorem State.setIn_sleep (s : State) (v : Byte) : (s.setIn v).sleep = s.sleep := rfl
@[simp] theorem State.setIn_claims (s : State) (v : Byte) : (s.setIn v).claims = s.claims := rfl
@[simp] theorem State.setIn_init (s : State) (v : Byte) : (s.setIn v).init = s.init := rfl
@[simp] theorem State.setIn_trace (s : State) (v : Byte) : (s.setIn v).trace = s.trace := rfl
@[simp] theorem State.setIn_env (s : State) (v : Byte) : (s.setIn v).env = s.env := rfl
@[simp] theorem State.setIn_inbox (s : State) (v : Byte) : (s.setIn v).inbox = s.inbox := rfl
@[simp] theorem State.setIn_pin (s : State) (v : Byte) (n : PinIx) : (s.setIn v).pin n = s.pin n := rfl
@[simp] theorem State.setIn_pinctrl (s : State) (v : Byte) (n : PinIx) : (s.setIn v).pinctrl n = s.pinctrl n := rfl
@[simp] theorem State.setIn_isc (s : State) (v : Byte) (n : PinIx) : (s.setIn v).isc n = s.isc n := rfl
@[simp] theorem State.setIn_pullupen (s : State) (v : Byte) (n : PinIx) : (s.setIn v).pullupen n = s.pullupen n := rfl
@[simp] theorem State.setIn_subscribers (s : State) (v : Byte) (bus : BusId) :
    (s.setIn v).subscribers bus = s.subscribers bus := rfl
@[simp] theorem State.setIn_suspendedNow (s : State) (v : Byte) : (s.setIn v).suspendedNow = s.suspendedNow := rfl
@[simp] theorem State.setIn_acActive (s : State) (v : Byte) : (s.setIn v).acActive = s.acActive := rfl
@[simp] theorem State.setIn_acReqWanted (s : State) (v : Byte) : (s.setIn v).acReqWanted = s.acReqWanted := rfl
@[simp] theorem State.setIn_acEnable (s : State) (v : Byte) : (s.setIn v).acEnable = s.acEnable := rfl
@[simp] theorem State.setIn_acIntmode (s : State) (v : Byte) : (s.setIn v).acIntmode = s.acIntmode := rfl
@[simp] theorem State.setIn_acInvert (s : State) (v : Byte) : (s.setIn v).acInvert = s.acInvert := rfl
@[simp] theorem State.setIn_acIntEnable (s : State) (v : Byte) : (s.setIn v).acIntEnable = s.acIntEnable := rfl
@[simp] theorem State.setIn_hysteresisWidth (s : State) (v : Byte) :
    (s.setIn v).hysteresisWidth = s.hysteresisWidth := rfl
@[simp] theorem State.setIn_drivenState (s : State) (v : Byte) (n : PinIx) :
    (s.setIn v).drivenState n = s.drivenState n := rfl

/-! ### `setIntflags` -/

@[simp] theorem State.setIntflags_cfg (s : State) (v : Byte) : (s.setIntflags v).cfg = s.cfg := rfl
@[simp] theorem State.setIntflags_port_dir (s : State) (v : Byte) : (s.setIntflags v).port.dir = s.port.dir := rfl
@[simp] theorem State.setIntflags_port_out (s : State) (v : Byte) : (s.setIntflags v).port.out = s.port.out := rfl
@[simp] theorem State.setIntflags_port_inp (s : State) (v : Byte) : (s.setIntflags v).port.inp = s.port.inp := rfl
@[simp] theorem State.setIntflags_port_intflags (s : State) (v : Byte) : (s.setIntflags v).port.intflags = v := rfl
@[simp] theorem State.setIntflags_port_pinctrl (s : State) (v : Byte) :
    (s.setIntflags v).port.pinctrl = s.port.pinctrl := rfl
@[simp] theorem State.setIntflags_pins (s : State) (v : Byte) : (s.setIntflags v).pins = s.pins := rfl
@[simp] theorem State.setIntflags_subs (s : State) (v : Byte) : (s.setIntflags v).subs = s.subs := rfl
@[simp] theorem State.setIntflags_delivering (s : State) (v : Byte) : (s.setIntflags v).delivering = s.delivering := rfl
@[simp] theorem State.setIntflags_portReq (s : State) (v : Byte) : (s.setIntflags v).portReq = s.portReq := rfl
@[simp] theorem State.setIntflags_ac (s : State) (v : Byte) : (s.setIntflags v).ac = s.ac := rfl
@[simp] theorem State.setIntflags_acReq (s : State) (v : Byte) : (s.setIntflags v).acReq = s.acReq := rfl
@[simp] theorem State.setIntflags_sleep (s : State) (v : Byte) : (s.setIntflags v).sleep = s.sleep := rfl
@[simp] theorem State.setIntflags_claims (s : State) (v : Byte) : (s.setIntflags v).claims = s.claims := rfl
@[simp] theorem State.setIntflags_init (s : State) (v : Byte) : (s.setIntflags v).init = s.init := rfl
@[simp] theorem State.setIntflags_trace (s : State) (v : Byte) : (s.setIntflags v).trace = s.trace := rfl
@[simp] theorem State.setIntflags_env (s : State) (v : Byte) : (s.setIntflags v).env = s.env := rfl
@[simp] theorem State.setIntflags_inbox (s : State) (v : Byte) : (s.setIntflags v).inbox = s.inbox := rfl
@[simp] theorem State.setIntflags_pin (s : State) (v : Byte) (n : PinIx) : (s.setIntflags v).pin n = s.pin n := rfl
@[simp] theorem State.setIntflags_pinctrl (s : State) (v : Byte) (n : PinIx) :
    (s.setIntflags v).pinctrl n = s.pinctrl n := rfl
@[simp] theorem State.setIntflags_isc (s : State) (v : Byte) (n : PinIx) : (s.setIntflags v).isc n = s.isc n := rfl
@[simp] theorem State.setIntflags_pullupen (s : State) (v : Byte) (n : PinIx) :
    (s.setIntflags v).pullupen n = s.pullupen n := rfl
@[simp] theorem State.setIntflags_subscribers (s : State) (v : Byte) (bus : BusId) :
    (s.setIntflags v).subscribers bus = s.subscribers bus := rfl
@[simp] theorem State.setIntflags_suspendedNow (s : State) (v : Byte) :
    (s.setIntflags v).suspendedNow = s.suspendedNow := rfl
@[simp] theorem State.setIntflags_acActive (s : State) (v : Byte) : (s.setIntflags v).acActive = s.acActive := rfl
@[simp] theorem State.setIntflags_acReqWanted (s : State) (v : Byte) :
    (s.setIntflags v).acReqWanted = s.acReqWanted := rfl
@[simp] theorem State.setIntflags_acEnable (s : State) (v : Byte) : (s.setIntflags v).acEnable = s.acEnable := rfl
@[simp] theorem State.setIntflags_acIntmode (s : State) (v : Byte) : (s.setIntflags v).acIntmode = s.acIntmode := rfl
@[simp] theorem State.setIntflags_acInvert (s : State) (v : Byte) : (s.setIntflags v).acInvert = s.acInvert := rfl
@[simp] theorem State.setIntflags_acIntEnable (s : State) (v : Byte) :
    (s.setIntflags v).acIntEnable = s.acIntEnable := rfl
@[simp] theorem State.setIntflags_hysteresisWidth (s : State) (v : Byte) :
    (s.setIntflags v).hysteresisWidth = s.hysteresisWidth := rfl
@[simp] theorem State.setIntflags_drivenState (s : State) (v : Byte) (n : PinIx) :
    (s.setIntflags v).drivenState n = s.drivenState n := rfl

/-! ### `setPinctrl` -/

@[simp] theorem State.setPinctrl_cfg (s : State) (i : PinIx) (v : Byte) : (s.setPinctrl i v).cfg = s.cfg := rfl
@[simp] theorem State.setPinctrl_port_dir (s : State) (i : PinIx) (v : Byte) :
    (s.setPinctrl i v).port.dir = s.port.dir := rfl
@[simp] theorem State.setPinctrl_port_out (s : State) (i : PinIx) (v : Byte) :
    (s.setPinctrl i v).port.out = s.port.out := rfl
@[simp] theorem State.setPinctrl_port_inp (s : State) (i : PinIx) (v : Byte) :
    (s.setPinctrl i v).port.inp = s.port.inp := rfl
@[simp] theorem State.setPinctrl_port_intflags (s : State) (i : PinIx) (v : Byte) :
    (s.setPinctrl i v).port.intflags = s.port.intflags := rfl
@[simp] theorem State.setPinctrl_port_pinctrl (s : State) (i : PinIx) (v : Byte) :
    (s.setPinctrl i v).port.pinctrl = s.port.pinctrl.set i v := rfl
@[simp] theorem State.setPinctrl_pins (s : State) (i : PinIx) (v : Byte) : (s.setPinctrl i v).pins = s.pins := rfl
@[simp] theorem State.setPinctrl_subs (s : State) (i : PinIx) (v : Byte) : (s.setPinctrl i v).subs = s.subs := rfl
@[simp] theorem State.setPinctrl_delivering (s : State) (i : PinIx) (v : Byte) :
    (s.setPinctrl i v).delivering = s.delivering := rfl
@[simp] theorem State.setPinctrl_portReq (s : State) (i : PinIx) (v : Byte) :
    (s.setPinctrl i v).portReq = s.portReq := rfl
@[simp] theorem State.setPinctrl_ac (s : State) (i : PinIx) (v : Byte) : (s.setPinctrl i v).ac = s.ac := rfl
@[simp] theorem State.setPinctrl_acReq (s : State) (i : PinIx) (v : Byte) : (s.setPinctrl i v).acReq = s.acReq := rfl
@[simp] theorem State.setPinctrl_sleep (s : State) (i : PinIx) (v : Byte) : (s.setPinctrl i v).sleep = s.sleep := rfl
@[simp] theorem State.setPinctrl_claims (s : State) (i : PinIx) (v : Byte) : (s.setPinctrl i v).claims = s.claims := rfl
@[simp] theorem State.setPinctrl_init (s : State) (i : PinIx) (v : Byte) : (s.setPinctrl i v).init = s.init := rfl
@[simp] theorem State.setPinctrl_trace (s : State) (i : PinIx) (v : Byte) : (s.setPinctrl i v).trace = s.trace := rfl
@[simp] theorem State.setPinctrl_env (s : State) (i : PinIx) (v : Byte) : (s.setPinctrl i v).env = s.env := rfl
@[simp] theorem State.setPinctrl_inbox (s : State) (i : PinIx) (v : Byte) : (s.setPinctrl i v).inbox = s.inbox := rfl
@[simp] theorem State.setPinctrl_pin (s : State) (i : PinIx) (v : Byte) (n : PinIx) :
    (s.setPinctrl i v).pin n = s.pin n := rfl
@[simp] theorem State.setPinctrl_subscribers (s : State) (i : PinIx) (v : Byte) (bus : BusId) :
    (s.setPinctrl i v).subscribers bus = s.subscribers bus := rfl
@[simp] theorem State.setPinctrl_suspendedNow (s : State) (i : PinIx) (v : Byte) :
    (s.setPinctrl i v).suspendedNow = s.suspendedNow := rfl
@[simp] theorem State.setPinctrl_acActive (s : State) (i : PinIx) (v : Byte) :
    (s.setPinctrl i v).acActive = s.acActive := rfl
@[simp] theorem State.setPinctrl_acReqWanted (s : State) (i : PinIx) (v : Byte) :
    (s.setPinctrl i v).acReqWanted = s.acReqWanted := rfl
@[simp] theorem State.setPinctrl_acEnable (s : State) (i : PinIx) (v : Byte) :
    (s.setPinctrl i v).acEnable = s.acEnable := rfl
@[simp] theorem State.setPinctrl_acIntmode (s : State) (i : PinIx) (v : Byte) :
    (s.setPinctrl i v).acIntmode = s.acIntmode := rfl
@[simp] theorem State.setPinctrl_acInvert (s : State) (i : PinIx) (v : Byte) :
    (s.setPinctrl i v).acInvert = s.acInvert := rfl
@[simp] theorem State.setPinctrl_acIntEnable (s : State) (i : PinIx) (v : Byte) :
    (s.setPinctrl i v).acIntEnable = s.acIntEnable := rfl
@[simp] theorem State.setPinctrl_hysteresisWidth (s : State) (i : PinIx) (v : Byte) :
    (s.setPinctrl i v).hysteresisWidth = s.hysteresisWidth := rfl
@[simp] theorem State.setPinctrl_pinctrl (s : State) (i : PinIx) (v : Byte) (k : PinIx) :
    (s.setPinctrl i v).pinctrl k = if k = i then v else s.pinctrl k := by
  simp only [State.pinctrl, State.setPinctrl, Fin.getElem_fin, Vector.getElem_set]
  by_cases h : k = i
  · subst h; simp
  · rw [if_neg (fun e => h (Fin.ext e.symm)), if_neg h]

/-! ### `setPin` -/

@[simp] theorem State.setPin_cfg (s : State) (i : PinIx) (st : PinState) : (s.setPin i st).cfg = s.cfg := rfl
@[simp] theorem State.setPin_port (s : State) (i : PinIx) (st : PinState) : (s.setPin i st).port = s.port := rfl
@[simp] theorem State.setPin_pins (s : State) (i : PinIx) (st : PinState) :
    (s.setPin i st).pins = s.pins.set i (some st) := rfl
@[simp] theorem State.setPin_subs (s : State) (i : PinIx) (st : PinState) : (s.setPin i st).subs = s.subs := rfl
@[simp] theorem State.setPin_delivering (s : State) (i : PinIx) (st : PinState) :
    (s.setPin i st).delivering = s.delivering := rfl
@[simp] theorem State.setPin_portReq (s : State) (i : PinIx) (st : PinState) :
    (s.setPin i st).portReq = s.portReq := rfl
@[simp] theorem State.setPin_ac (s : State) (i : PinIx) (st : PinState) : (s.setPin i st).ac = s.ac := rfl
@[simp] theorem State.setPin_acReq (s : State) (i : PinIx) (st : PinState) : (s.setPin i st).acReq = s.acReq := rfl
@[simp] theorem State.setPin_sleep (s : State) (i : PinIx) (st : PinState) : (s.setPin i st).sleep = s.sleep := rfl
@[simp] theorem State.setPin_claims (s : State) (i : PinIx) (st : PinState) : (s.setPin i st).claims = s.claims := rfl
@[simp] theorem State.setPin_init (s : State) (i : PinIx) (st : PinState) : (s.setPin i st).init = s.init := rfl
@[simp] theorem State.setPin_trace (s : State) (i : PinIx) (st : PinState) : (s.setPin i st).trace = s.trace := rfl
@[simp] theorem State.setPin_env (s : State) (i : PinIx) (st : PinState) : (s.setPin i st).env = s.env := rfl
@[simp] theorem State.setPin_inbox (s : State) (i : PinIx) (st : PinState) : (s.setPin i st).inbox = s.inbox := rfl
@[simp] theorem State.setPin_pinctrl (s : State) (i : PinIx) (st : PinState) (n : PinIx) :
    (s.setPin i st).pinctrl n = s.pinctrl n := rfl
@[simp] theorem State.setPin_isc (s : State) (i : PinIx) (st : PinState) (n : PinIx) :
    (s.setPin i st).isc n = s.isc n := rfl
@[simp] theorem State.setPin_pullupen (s : State) (i : PinIx) (st : PinState) (n : PinIx) :
    (s.setPin i st).pullupen n = s.pullupen n := rfl
@[simp] theorem State.setPin_subscribers (s : State) (i : PinIx) (st : PinState) (bus : BusId) :
    (s.setPin i st).subscribers bus = s.subscribers bus := rfl
@[simp] theorem State.setPin_suspendedNow (s : State) (i : PinIx) (st : PinState) :
    (s.setPin i st).suspendedNow = s.suspendedNow := rfl
@[simp] theorem State.setPin_acActive (s : State) (i : PinIx) (st : PinState) :
    (s.setPin i st).acActive = s.acActive := rfl
@[simp] theorem State.setPin_acReqWanted (s : State) (i : PinIx) (st : PinState) :
    (s.setPin i st).acReqWanted = s.acReqWanted := rfl
@[simp] theorem State.setPin_acEnable (s : State) (i : PinIx) (st : PinState) :
    (s.setPin i st).acEnable = s.acEnable := rfl
@[simp] theorem State.setPin_acIntmode (s : State) (i : PinIx) (st : PinState) :
    (s.setPin i st).acIntmode = s.acIntmode := rfl
@[simp] theorem State.setPin_acInvert (s : State) (i : PinIx) (st : PinState) :
    (s.setPin i st).acInvert = s.acInvert := rfl
@[simp] theorem State.setPin_acIntEnable (s : State) (i : PinIx) (st : PinState) :
    (s.setPin i st).acIntEnable = s.acIntEnable := rfl
@[simp] theorem State.setPin_hysteresisWidth (s : State) (i : PinIx) (st : PinState) :
    (s.setPin i st).hysteresisWidth = s.hysteresisWidth := rfl
@[simp] theorem State.setPin_drivenState (s : State) (i : PinIx) (st : PinState) (n : PinIx) :
    (s.setPin i st).drivenState n = s.drivenState n := rfl
@[simp] theorem State.setPin_pin (s : State) (i : PinIx) (st : PinState) (k : PinIx) :
    (s.setPin i st).pin k = if k = i then some st else s.pin k := by
  simp only [State.pin, State.setPin, Fin.getElem_fin, Vector.getElem_set]
  by_cases h : k = i
  · subst h; simp
  · rw [if_neg (fun e => h (Fin.ext e.symm)), if_neg h]

/-! ### `setCtrla` -/

@[simp] theorem State.setCtrla_cfg (s : State) (v : Byte) : (s.setCtrla v).cfg = s.cfg := rfl
@[simp] theorem State.setCtrla_port (s : State) (v : Byte) : (s.setCtrla v).port = s.port := rfl
@[simp] theorem State.setCtrla_pins (s : State) (v : Byte) : (s.setCtrla v).pins = s.pins := rfl
@[simp] theorem State.setCtrla_subs (s : State) (v : Byte) : (s.setCtrla v).subs = s.subs := rfl
@[simp] theorem State.setCtrla_delivering (s : State) (v : Byte) : (s.setCtrla v).delivering = s.delivering := rfl
@[simp] theorem State.setCtrla_portReq (s : State) (v : Byte) : (s.setCtrla v).portReq = s.portReq := rfl
@[simp] theorem State.setCtrla_ac_ctrla (s : State) (v : Byte) : (s.setCtrla v).ac.ctrla = v := rfl
@[simp] theorem State.setCtrla_ac_muxctrla (s : State) (v : Byte) : (s.setCtrla v).ac.muxctrla = s.ac.muxctrla := rfl
@[simp] theorem State.setCtrla_ac_intctrl (s : State) (v : Byte) : (s.setCtrla v).ac.intctrl = s.ac.intctrl := rfl
@[simp] theorem State.setCtrla_ac_cmp (s : State) (v : Byte) : (s.setCtrla v).ac.cmp = s.ac.cmp := rfl
@[simp] theorem State.setCtrla_ac_raw (s : State) (v : Byte) : (s.setCtrla v).ac.raw = s.ac.raw := rfl
@[simp] theorem State.setCtrla_ac_out (s : State) (v : Byte) : (s.setCtrla v).ac.out = s.ac.out := rfl
@[simp] theorem State.setCtrla_ac_ref (s : State) (v : Byte) : (s.setCtrla v).ac.ref = s.ac.ref := rfl
@[simp] theorem State.setCtrla_ac_chan (s : State) (v : Byte) : (s.setCtrla v).ac.chan = s.ac.chan := rfl
@[simp] theorem State.setCtrla_ac_suspended (s : State) (v : Byte) : (s.setCtrla v).ac.suspended = s.ac.suspended := rfl
@[simp] theorem State.setCtrla_acReq (s : State) (v : Byte) : (s.setCtrla v).acReq = s.acReq := rfl
@[simp] theorem State.setCtrla_sleep (s : State) (v : Byte) : (s.setCtrla v).sleep = s.sleep := rfl
@[simp] theorem State.setCtrla_claims (s : State) (v : Byte) : (s.setCtrla v).claims = s.claims := rfl
@[simp] theorem State.setCtrla_init (s : State) (v : Byte) : (s.setCtrla v).init = s.init := rfl
@[simp] theorem State.setCtrla_trace (s : State) (v : Byte) : (s.setCtrla v).trace = s.trace := rfl
@[simp] theorem State.setCtrla_env (s : State) (v : Byte) : (s.setCtrla v).env = s.env := rfl
@[simp] theorem State.setCtrla_inbox (s : State) (v : Byte) : (s.setCtrla v).inbox = s.inbox := rfl
@[simp] theorem State.setCtrla_pin (s : State) (v : Byte) (n : PinIx) : (s.setCtrla v).pin n = s.pin n := rfl
@[simp] theorem State.setCtrla_pinctrl (s : State) (v : Byte) (n : PinIx) :
    (s.setCtrla v).pinctrl n = s.pinctrl n := rfl
@[simp] theorem State.setCtrla_isc (s : State) (v : Byte) (n : PinIx) : (s.setCtrla v).isc n = s.isc n := rfl
@[simp] theorem State.setCtrla_pullupen (s : State) (v : Byte) (n : PinIx) :
    (s.setCtrla v).pullupen n = s.pullupen n := rfl
@[simp] theorem State.setCtrla_subscribers (s : State) (v : Byte) (bus : BusId) :
    (s.setCtrla v).subscribers bus = s.subscribers bus := rfl
@[simp] theorem State.setCtrla_acReqWanted (s : State) (v : Byte) : (s.setCtrla v).acReqWanted = s.acReqWanted := rfl
@[simp] theorem State.setCtrla_acInvert (s : State) (v : Byte) : (s.setCtrla v).acInvert = s.acInvert := rfl
@[simp] theorem State.setCtrla_acIntEnable (s : State) (v : Byte) : (s.setCtrla v).acIntEnable = s.acIntEnable := rfl
@[simp] theorem State.setCtrla_drivenState (s : State) (v : Byte) (n : PinIx) :
    (s.setCtrla v).drivenState n = s.drivenState n := rfl

/-! ### `setMuxctrla` -/

@[simp] theorem State.setMuxctrla_cfg (s : State) (v : Byte) : (s.setMuxctrla v).cfg = s.cfg := rfl
@[simp] theorem State.setMuxctrla_port (s : State) (v : Byte) : (s.setMuxctrla v).port = s.port := rfl
@[simp] theorem State.setMuxctrla_pins (s : State) (v : Byte) : (s.setMuxctrla v).pins = s.pins := rfl
@[simp] theorem State.setMuxctrla_subs (s : State) (v : Byte) : (s.setMuxctrla v).subs = s.subs := rfl
@[simp] theorem State.setMuxctrla_delivering (s : State) (v : Byte) : (s.setMuxctrla v).delivering = s.delivering := rfl
@[simp] theorem State.setMuxctrla_portReq (s : State) (v : Byte) : (s.setMuxctrla v).portReq = s.portReq := rfl
@[simp] theorem State.setMuxctrla_ac_ctrla (s : State) (v : Byte) : (s.setMuxctrla v).ac.ctrla = s.ac.ctrla := rfl
@[simp] theorem State.setMuxctrla_ac_muxctrla (s : State) (v : Byte) : (s.setMuxctrla v).ac.muxctrla = v := rfl
@[simp] theorem State.setMuxctrla_ac_intctrl (s : State) (v : Byte) : (s.setMuxctrla v).ac.intctrl = s.ac.intctrl := rfl
@[simp] theorem State.setMuxctrla_ac_cmp (s : State) (v : Byte) : (s.setMuxctrla v).ac.cmp = s.ac.cmp := rfl
@[simp] theorem State.setMuxctrla_ac_raw (s : State) (v : Byte) : (s.setMuxctrla v).ac.raw = s.ac.raw := rfl
@[simp] theorem State.setMuxctrla_ac_out (s : State) (v : Byte) : (s.setMuxctrla v).ac.out = s.ac.out := rfl
@[simp] theorem State.setMuxctrla_ac_ref (s : State) (v : Byte) : (s.setMuxctrla v).ac.ref = s.ac.ref := rfl
@[simp] theorem State.setMuxctrla_ac_chan (s : State) (v : Byte) : (s.setMuxctrla v).ac.chan = s.ac.chan := rfl
@[simp] theorem State.setMuxctrla_ac_suspended (s : State) (v : Byte) :
    (s.setMuxctrla v).ac.suspended = s.ac.suspended := rfl
@[simp] theorem State.setMuxctrla_acReq (s : State) (v : Byte) : (s.setMuxctrla v).acReq = s.acReq := rfl
@[simp] theorem State.setMuxctrla_sleep (s : State) (v : Byte) : (s.setMuxctrla v).sleep = s.sleep := rfl
@[simp] theorem State.setMuxctrla_claims (s : State) (v : Byte) : (s.setMuxctrla v).claims = s.claims := rfl
@[simp] theorem State.setMuxctrla_init (s : State) (v : Byte) : (s.setMuxctrla v).init = s.init := rfl
@[simp] theorem State.setMuxctrla_trace (s : State) (v : Byte) : (s.setMuxctrla v).trace = s.trace := rfl
@[simp] theorem State.setMuxctrla_env (s : State) (v : Byte) : (s.setMuxctrla v).env = s.env := rfl
@[simp] theorem State.setMuxctrla_inbox (s : State) (v : Byte) : (s.setMuxctrla v).inbox = s.inbox := rfl
@[simp] theorem State.setMuxctrla_pin (s : State) (v : Byte) (n : PinIx) : (s.setMuxctrla v).pin n = s.pin n := rfl
@[simp] theorem State.setMuxctrla_pinctrl (s : State) (v : Byte) (n : PinIx) :
    (s.setMuxctrla v).pinctrl n = s.pinctrl n := rfl
@[simp] theorem State.setMuxctrla_isc (s : State) (v : Byte) (n : PinIx) : (s.setMuxctrla v).isc n = s.isc n := rfl
@[simp] theorem State.setMuxctrla_pullupen (s : State) (v : Byte) (n : PinIx) :
    (s.setMuxctrla v).pullupen n = s.pullupen n := rfl
@[simp] theorem State.setMuxctrla_subscribers (s : State) (v : Byte) (bus : BusId) :
    (s.setMuxctrla v).subscribers bus = s.subscribers bus := rfl
@[simp] theorem State.setMuxctrla_suspendedNow (s : State) (v : Byte) :
    (s.setMuxctrla v).suspendedNow = s.suspendedNow := rfl
@[simp] theorem State.setMuxctrla_acActive (s : State) (v : Byte) : (s.setMuxctrla v).acActive = s.acActive := rfl
@[simp] theorem State.setMuxctrla_acReqWanted (s : State) (v : Byte) :
    (s.setMuxctrla v).acReqWanted = s.acReqWanted := rfl
@[simp] theorem State.setMuxctrla_acEnable (s : State) (v : Byte) : (s.setMuxctrla v).acEnable = s.acEnable := rfl
@[simp] theorem State.setMuxctrla_acIntmode (s : State) (v : Byte) : (s.setMuxctrla v).acIntmode = s.acIntmode := rfl
@[simp] theorem State.setMuxctrla_acIntEnable (s : State) (v : Byte) :
    (s.setMuxctrla v).acIntEnable = s.acIntEnable := rfl
@[simp] theorem State.setMuxctrla_hysteresisWidth (s : State) (v : Byte) :
    (s.setMuxctrla v).hysteresisWidth = s.hysteresisWidth := rfl
@[simp] theorem State.setMuxctrla_drivenState (s : State) (v : Byte) (n : PinIx) :
    (s.setMuxctrla v).drivenState n = s.drivenState n := rfl

/-! ### `setIntctrl` -/

@[simp] theorem State.setIntctrl_cfg (s : State) (v : Byte) : (s.setIntctrl v).cfg = s.cfg := rfl
@[simp] theorem State.setIntctrl_port (s : State) (v : Byte) : (s.setIntctrl v).port = s.port := rfl
@[simp] theorem State.setIntctrl_pins (s : State) (v : Byte) : (s.setIntctrl v).pins = s.pins := rfl
@[simp] theorem State.setIntctrl_subs (s : State) (v : Byte) : (s.setIntctrl v).subs = s.subs := rfl
@[simp] theorem State.setIntctrl_delivering (s : State) (v : Byte) : (s.setIntctrl v).delivering = s.delivering := rfl
@[simp] theorem State.setIntctrl_portReq (s : State) (v : Byte) : (s.setIntctrl v).portReq = s.portReq := rfl
@[simp] theorem State.setIntctrl_ac_ctrla (s : State) (v : Byte) : (s.setIntctrl v).ac.ctrla = s.ac.ctrla := rfl
@[simp] theorem State.setIntctrl_ac_muxctrla (s : State) (v : Byte) :
    (s.setIntctrl v).ac.muxctrla = s.ac.muxctrla := rfl
@[simp] theorem State.setIntctrl_ac_intctrl (s : State) (v : Byte) : (s.setIntctrl v).ac.intctrl = v := rfl
@[simp] theorem State.setIntctrl_ac_cmp (s : State) (v : Byte) : (s.setIntctrl v).ac.cmp = s.ac.cmp := rfl
@[simp] theorem State.setIntctrl_ac_raw (s : State) (v : Byte) : (s.setIntctrl v).ac.raw = s.ac.raw := rfl
@[simp] theorem State.setIntctrl_ac_out (s : State) (v : Byte) : (s.setIntctrl v).ac.out = s.ac.out := rfl
@[simp] theorem State.setIntctrl_ac_ref (s : State) (v : Byte) : (s.setIntctrl v).ac.ref = s.ac.ref := rfl
@[simp] theorem State.setIntctrl_ac_chan (s : State) (v : Byte) : (s.setIntctrl v).ac.chan = s.ac.chan := rfl
@[simp] theorem State.setIntctrl_ac_suspended (s : State) (v : Byte) :
    (s.setIntctrl v).ac.suspended = s.ac.suspended := rfl
@[simp] theorem State.setIntctrl_acReq (s : State) (v : Byte) : (s.setIntctrl v).acReq = s.acReq := rfl
@[simp] theorem State.setIntctrl_sleep (s : State) (v : Byte) : (s.setIntctrl v).sleep = s.sleep := rfl
@[simp] theorem State.setIntctrl_claims (s : State) (v : Byte) : (s.setIntctrl v).claims = s.claims := rfl
@[simp] theorem State.setIntctrl_init (s : State) (v : Byte) : (s.setIntctrl v).init = s.init := rfl
@[simp] theorem State.setIntctrl_trace (s : State) (v : Byte) : (s.setIntctrl v).trace = s.trace := rfl
@[simp] theorem State.setIntctrl_env (s : State) (v : Byte) : (s.setIntctrl v).env = s.env := rfl
@[simp] theorem State.setIntctrl_inbox (s : State) (v : Byte) : (s.setIntctrl v).inbox = s.inbox := rfl
@[simp] theorem State.setIntctrl_pin (s : State) (v : Byte) (n : PinIx) : (s.setIntctrl v).pin n = s.pin n := rfl
@[simp] theorem State.setIntctrl_pinctrl (s : State) (v : Byte) (n : PinIx) :
    (s.setIntctrl v).pinctrl n = s.pinctrl n := rfl
@[simp] theorem State.setIntctrl_isc (s : State) (v : Byte) (n : PinIx) : (s.setIntctrl v).isc n = s.isc n := rfl
@[simp] theorem State.setIntctrl_pullupen (s : State) (v : Byte) (n : PinIx) :
    (s.setIntctrl v).pullupen n = s.pullupen n := rfl
@[simp] theorem State.setIntctrl_subscribers (s : State) (v : Byte) (bus : BusId) :
    (s.setIntctrl v).subscribers bus = s.subscribers bus := rfl
@[simp] theorem State.setIntctrl_suspendedNow (s : State) (v : Byte) :
    (s.setIntctrl v).suspendedNow = s.suspendedNow := rfl
@[simp] theorem State.setIntctrl_acActive (s : State) (v : Byte) : (s.setIntctrl v).acActive = s.acActive := rfl
@[simp] theorem State.setIntctrl_acEnable (s : State) (v : Byte) : (s.setIntctrl v).acEnable = s.acEnable := rfl
@[simp] theorem State.setIntctrl_acIntmode (s : State) (v : Byte) : (s.setIntctrl v).acIntmode = s.acIntmode := rfl
@[simp] theorem State.setIntctrl_acInvert (s : State) (v : Byte) : (s.setIntctrl v).acInvert = s.acInvert := rfl
@[simp] theorem State.setIntctrl_hysteresisWidth (s : State) (v : Byte) :
    (s.setIntctrl v).hysteresisWidth = s.hysteresisWidth := rfl
@[simp] theorem State.setIntctrl_drivenState (s : State) (v : Byte) (n : PinIx) :
    (s.setIntctrl v).drivenState n = s.drivenState n := rfl

/-! ### `setCmp` -/

@[simp] theorem State.setCmp_cfg (s : State) (b : Bool) : (s.setCmp b).cfg = s.cfg := rfl
@[simp] theorem State.setCmp_port (s : State) (b : Bool) : (s.setCmp b).port = s.port := rfl
@[simp] theorem State.setCmp_pins (s : State) (b : Bool) : (s.setCmp b).pins = s.pins := rfl
@[simp] theorem State.setCmp_subs (s : State) (b : Bool) : (s.setCmp b).subs = s.subs := rfl
@[simp] theorem State.setCmp_delivering (s : State) (b : Bool) : (s.setCmp b).delivering = s.delivering := rfl
@[simp] theorem State.setCmp_portReq (s : State) (b : Bool) : (s.setCmp b).portReq = s.portReq := rfl
@[simp] theorem State.setCmp_ac_ctrla (s : State) (b : Bool) : (s.setCmp b).ac.ctrla = s.ac.ctrla := rfl
@[simp] theorem State.setCmp_ac_muxctrla (s : State) (b : Bool) : (s.setCmp b).ac.muxctrla = s.ac.muxctrla := rfl
@[simp] theorem State.setCmp_ac_intctrl (s : State) (b : Bool) : (s.setCmp b).ac.intctrl = s.ac.intctrl := rfl
@[simp] theorem State.setCmp_ac_cmp (s : State) (b : Bool) : (s.setCmp b).ac.cmp = b := rfl
@[simp] theorem State.setCmp_ac_raw (s : State) (b : Bool) : (s.setCmp b).ac.raw = s.ac.raw := rfl
@[simp] theorem State.setCmp_ac_out (s : State) (b : Bool) : (s.setCmp b).ac.out = s.ac.out := rfl
@[simp] theorem State.setCmp_ac_ref (s : State) (b : Bool) : (s.setCmp b).ac.ref = s.ac.ref := rfl
@[simp] theorem State.setCmp_ac_chan (s : State) (b : Bool) : (s.setCmp b).ac.chan = s.ac.chan := rfl
@[simp] theorem State.setCmp_ac_suspended (s : State) (b : Bool) : (s.setCmp b).ac.suspended = s.ac.suspended := rfl
@[simp] theorem State.setCmp_acReq (s : State) (b : Bool) : (s.setCmp b).acReq = s.acReq := rfl
@[simp] theorem State.setCmp_sleep (s : State) (b : Bool) : (s.setCmp b).sleep = s.sleep := rfl
@[simp] theorem State.setCmp_claims (s : State) (b : Bool) : (s.setCmp b).claims = s.claims := rfl
@[simp] theorem State.setCmp_init (s : State) (b : Bool) : (s.setCmp b).init = s.init := rfl
@[simp] theorem State.setCmp_trace (s : State) (b : Bool) : (s.setCmp b).trace = s.trace := rfl
@[simp] theorem State.setCmp_env (s : State) (b : Bool) : (s.setCmp b).env = s.env := rfl
@[simp] theorem State.setCmp_inbox (s : State) (b : Bool) : (s.setCmp b).inbox = s.inbox := rfl
@[simp] theorem State.setCmp_pin (s : State) (b : Bool) (n : PinIx) : (s.setCmp b).pin n = s.pin n := rfl
@[simp] theorem State.setCmp_pinctrl (s : State) (b : Bool) (n : PinIx) : (s.setCmp b).pinctrl n = s.pinctrl n := rfl
@[simp] theorem State.setCmp_isc (s : State) (b : Bool) (n : PinIx) : (s.setCmp b).isc n = s.isc n := rfl
@[simp] theorem State.setCmp_pullupen (s : State) (b : Bool) (n : PinIx) : (s.setCmp b).pullupen n = s.pullupen n := rfl
@[simp] theorem State.setCmp_subscribers (s : State) (b : Bool) (bus : BusId) :
    (s.setCmp b).subscribers bus = s.subscribers bus := rfl
@[simp] theorem State.setCmp_suspendedNow (s : State) (b : Bool) : (s.setCmp b).suspendedNow = s.suspendedNow := rfl
@[simp] theorem State.setCmp_acActive (s : State) (b : Bool) : (s.setCmp b).acActive = s.acActive := rfl
@[simp] theorem State.setCmp_acEnable (s : State) (b : Bool) : (s.setCmp b).acEnable = s.acEnable := rfl
@[simp] theorem State.setCmp_acIntmode (s : State) (b : Bool) : (s.setCmp b).acIntmode = s.acIntmode := rfl
@[simp] theorem State.setCmp_acInvert (s : State) (b : Bool) : (s.setCmp b).acInvert = s.acInvert := rfl
@[simp] theorem State.setCmp_acIntEnable (s : State) (b : Bool) : (s.setCmp b).acIntEnable = s.acIntEnable := rfl
@[simp] theorem State.setCmp_hysteresisWidth (s : State) (b : Bool) :
    (s.setCmp b).hysteresisWidth = s.hysteresisWidth := rfl
@[simp] theorem State.setCmp_drivenState (s : State) (b : Bool) (n : PinIx) :
    (s.setCmp b).drivenState n = s.drivenState n := rfl

/-! ### `setRaw` -/

@[simp] theorem State.setRaw_cfg (s : State) (b : Bool) : (s.setRaw b).cfg = s.cfg := rfl
@[simp] theorem State.setRaw_port (s : State) (b : Bool) : (s.setRaw b).port = s.port := rfl
@[simp] theorem State.setRaw_pins (s : State) (b : Bool) : (s.setRaw b).pins = s.pins := rfl
@[simp] theorem State.setRaw_subs (s : State) (b : Bool) : (s.setRaw b).subs = s.subs := rfl
@[simp] theorem State.setRaw_delivering (s : State) (b : Bool) : (s.setRaw b).delivering = s.delivering := rfl
@[simp] theorem State.setRaw_portReq (s : State) (b : Bool) : (s.setRaw b).portReq = s.portReq := rfl
@[simp] theorem State.setRaw_ac_ctrla (s : State) (b : Bool) : (s.setRaw b).ac.ctrla = s.ac.ctrla := rfl
@[simp] theorem State.setRaw_ac_muxctrla (s : State) (b : Bool) : (s.setRaw b).ac.muxctrla = s.ac.muxctrla := rfl
@[simp] theorem State.setRaw_ac_intctrl (s : State) (b : Bool) : (s.setRaw b).ac.intctrl = s.ac.intctrl := rfl
@[simp] theorem State.setRaw_ac_cmp (s : State) (b : Bool) : (s.setRaw b).ac.cmp = s.ac.cmp := rfl
@[simp] theorem State.setRaw_ac_raw (s : State) (b : Bool) : (s.setRaw b).ac.raw = b := rfl
@[simp] theorem State.setRaw_ac_out (s : State) (b : Bool) : (s.setRaw b).ac.out = s.ac.out := rfl
@[simp] theorem State.setRaw_ac_ref (s : State) (b : Bool) : (s.setRaw b).ac.ref = s.ac.ref := rfl
@[simp] theorem State.setRaw_ac_chan (s : State) (b : Bool) : (s.setRaw b).ac.chan = s.ac.chan := rfl
@[simp] theorem State.setRaw_ac_suspended (s : State) (b : Bool) : (s.setRaw b).ac.suspended = s.ac.suspended := rfl
@[simp] theorem State.setRaw_acReq (s : State) (b : Bool) : (s.setRaw b).acReq = s.acReq := rfl
@[simp] theorem State.setRaw_sleep (s : State) (b : Bool) : (s.setRaw b).sleep = s.sleep := rfl
@[simp] theorem State.setRaw_claims (s : State) (b : Bool) : (s.setRaw b).claims = s.claims := rfl
@[simp] theorem State.setRaw_init (s : State) (b : Bool) : (s.setRaw b).init = s.init := rfl
@[simp] theorem State.setRaw_trace (s : State) (b : Bool) : (s.setRaw b).trace = s.trace := rfl
@[simp] theorem State.setRaw_env (s : State) (b : Bool) : (s.setRaw b).env = s.env := rfl
@[simp] theorem State.setRaw_inbox (s : State) (b : Bool) : (s.setRaw b).inbox = s.inbox := rfl
@[simp] theorem State.setRaw_pin (s : State) (b : Bool) (n : PinIx) : (s.setRaw b).pin n = s.pin n := rfl
@[simp] theorem State.setRaw_pinctrl (s : State) (b : Bool) (n : PinIx) : (s.setRaw b).pinctrl n = s.pinctrl n := rfl
@[simp] theorem State.setRaw_isc (s : State) (b : Bool) (n : PinIx) : (s.setRaw b).isc n = s.isc n := rfl
@[simp] theorem State.setRaw_pullupen (s : State) (b : Bool) (n : PinIx) : (s.setRaw b).pullupen n = s.pullupen n := rfl
@[simp] theorem State.setRaw_subscribers (s : State) (b : Bool) (bus : BusId) :
    (s.setRaw b).subscribers bus = s.subscribers bus := rfl
@[simp] theorem State.setRaw_suspendedNow (s : State) (b : Bool) : (s.setRaw b).suspendedNow = s.suspendedNow := rfl
@[simp] theorem State.setRaw_acActive (s : State) (b : Bool) : (s.setRaw b).acActive = s.acActive := rfl
@[simp] theorem State.setRaw_acReqWanted (s : State) (b : Bool) : (s.setRaw b).acReqWanted = s.acReqWanted := rfl
@[simp] theorem State.setRaw_acEnable (s : State) (b : Bool) : (s.setRaw b).acEnable = s.acEnable := rfl
@[simp] theorem State.setRaw_acIntmode (s : State) (b : Bool) : (s.setRaw b).acIntmode = s.acIntmode := rfl
@[simp] theorem State.setRaw_acInvert (s : State) (b : Bool) : (s.setRaw b).acInvert = s.acInvert := rfl
@[simp] theorem State.setRaw_acIntEnable (s : State) (b : Bool) : (s.setRaw b).acIntEnable = s.acIntEnable := rfl
@[simp] theorem State.setRaw_hysteresisWidth (s : State) (b : Bool) :
    (s.setRaw b).hysteresisWidth = s.hysteresisWidth := rfl
@[simp] theorem State.setRaw_drivenState (s : State) (b : Bool) (n : PinIx) :
    (s.setRaw b).drivenState n = s.drivenState n := rfl

/-! ### `setAcOut` -/

@[simp] theorem State.setAcOut_cfg (s : State) (b : Bool) : (s.setAcOut b).cfg = s.cfg := rfl
@[simp] theorem State.setAcOut_port (s : State) (b : Bool) : (s.setAcOut b).port = s.port := rfl
@[simp] theorem State.setAcOut_pins (s : State) (b : Bool) : (s.setAcOut b).pins = s.pins := rfl
@[simp] theorem State.setAcOut_subs (s : State) (b : Bool) : (s.setAcOut b).subs = s.subs := rfl
@[simp] theorem State.setAcOut_delivering (s : State) (b : Bool) : (s.setAcOut b).delivering = s.delivering := rfl
@[simp] theorem State.setAcOut_portReq (s : State) (b : Bool) : (s.setAcOut b).portReq = s.portReq := rfl
@[simp] theorem State.setAcOut_ac_ctrla (s : State) (b : Bool) : (s.setAcOut b).ac.ctrla = s.ac.ctrla := rfl
@[simp] theorem State.setAcOut_ac_muxctrla (s : State) (b : Bool) : (s.setAcOut b).ac.muxctrla = s.ac.muxctrla := rfl
@[simp] theorem State.setAcOut_ac_intctrl (s : State) (b : Bool) : (s.setAcOut b).ac.intctrl = s.ac.intctrl := rfl
@[simp] theorem State.setAcOut_ac_cmp (s : State) (b : Bool) : (s.setAcOut b).ac.cmp = s.ac.cmp := rfl
@[simp] theorem State.setAcOut_ac_raw (s : State) (b : Bool) : (s.setAcOut b).ac.raw = s.ac.raw := rfl
@[simp] theorem State.setAcOut_ac_out (s : State) (b : Bool) : (s.setAcOut b).ac.out = b := rfl
@[simp] theorem State.setAcOut_ac_ref (s : State) (b : Bool) : (s.setAcOut b).ac.ref = s.ac.ref := rfl
@[simp] theorem State.setAcOut_ac_chan (s : State) (b : Bool) : (s.setAcOut b).ac.chan = s.ac.chan := rfl
@[simp] theorem State.setAcOut_ac_suspended (s : State) (b : Bool) : (s.setAcOut b).ac.suspended = s.ac.suspended := rfl
@[simp] theorem State.setAcOut_acReq (s : State) (b : Bool) : (s.setAcOut b).acReq = s.acReq := rfl
@[simp] theorem State.setAcOut_sleep (s : State) (b : Bool) : (s.setAcOut b).sleep = s.sleep := rfl
@[simp] theorem State.setAcOut_claims (s : State) (b : Bool) : (s.setAcOut b).claims = s.claims := rfl
@[simp] theorem State.setAcOut_init (s : State) (b : Bool) : (s.setAcOut b).init = s.init := rfl
@[simp] theorem State.setAcOut_trace (s : State) (b : Bool) : (s.setAcOut b).trace = s.trace := rfl
@[simp] theorem State.setAcOut_env (s : State) (b : Bool) : (s.setAcOut b).env = s.env := rfl
@[simp] theorem State.setAcOut_inbox (s : State) (b : Bool) : (s.setAcOut b).inbox = s.inbox := rfl
@[simp] theorem State.setAcOut_pin (s : State) (b : Bool) (n : PinIx) : (s.setAcOut b).pin n = s.pin n := rfl
@[simp] theorem State.setAcOut_pinctrl (s : State) (b : Bool) (n : PinIx) :
    (s.setAcOut b).pinctrl n = s.pinctrl n := rfl
@[simp] theorem State.setAcOut_isc (s : State) (b : Bool) (n : PinIx) : (s.setAcOut b).isc n = s.isc n := rfl
@[simp] theorem State.setAcOut_pullupen (s : State) (b : Bool) (n : PinIx) :
    (s.setAcOut b).pullupen n = s.pullupen n := rfl
@[simp] theorem State.setAcOut_subscribers (s : State) (b : Bool) (bus : BusId) :
    (s.setAcOut b).subscribers bus = s.subscribers bus := rfl
@[simp] theorem State.setAcOut_suspendedNow (s : State) (b : Bool) : (s.setAcOut b).suspendedNow = s.suspendedNow := rfl
@[simp] theorem State.setAcOut_acActive (s : State) (b : Bool) : (s.setAcOut b).acActive = s.acActive := rfl
@[simp] theorem State.setAcOut_acReqWanted (s : State) (b : Bool) : (s.setAcOut b).acReqWanted = s.acReqWanted := rfl
@[simp] theorem State.setAcOut_acEnable (s : State) (b : Bool) : (s.setAcOut b).acEnable = s.acEnable := rfl
@[simp] theorem State.setAcOut_acIntmode (s : State) (b : Bool) : (s.setAcOut b).acIntmode = s.acIntmode := rfl
@[simp] theorem State.setAcOut_acInvert (s : State) (b : Bool) : (s.setAcOut b).acInvert = s.acInvert := rfl
@[simp] theorem State.setAcOut_acIntEnable (s : State) (b : Bool) : (s.setAcOut b).acIntEnable = s.acIntEnable := rfl
@[simp] theorem State.setAcOut_hysteresisWidth (s : State) (b : Bool) :
    (s.setAcOut b).hysteresisWidth = s.hysteresisWidth := rfl
@[simp] theorem State.setAcOut_drivenState (s : State) (b : Bool) (n : PinIx) :
    (s.setAcOut b).drivenState n = s.drivenState n := rfl

/-! ### `setRef` -/

@[simp] theorem State.setRef_cfg (s : State) (u : Volt) : (s.setRef u).cfg = s.cfg := rfl
@[simp] theorem State.setRef_port (s : State) (u : Volt) : (s.setRef u).port = s.port := rfl
@[simp] theorem State.setRef_pins (s : State) (u : Volt) : (s.setRef u).pins = s.pins := rfl
@[simp] theorem State.setRef_subs (s : State) (u : Volt) : (s.setRef u).subs = s.subs := rfl
@[simp] theorem State.setRef_delivering (s : State) (u : Volt) : (s.setRef u).delivering = s.delivering := rfl
@[simp] theorem State.setRef_portReq (s : State) (u : Volt) : (s.setRef u).portReq = s.portReq := rfl
@[simp] theorem State.setRef_ac_ctrla (s : State) (u : Volt) : (s.setRef u).ac.ctrla = s.ac.ctrla := rfl
@[simp] theorem State.setRef_ac_muxctrla (s : State) (u : Volt) : (s.setRef u).ac.muxctrla = s.ac.muxctrla := rfl
@[simp] theorem State.setRef_ac_intctrl (s : State) (u : Volt) : (s.setRef u).ac.intctrl = s.ac.intctrl := rfl
@[simp] theorem State.setRef_ac_cmp (s : State) (u : Volt) : (s.setRef u).ac.cmp = s.ac.cmp := rfl
@[simp] theorem State.setRef_ac_raw (s : State) (u : Volt) : (s.setRef u).ac.raw = s.ac.raw := rfl
@[simp] theorem State.setRef_ac_out (s : State) (u : Volt) : (s.setRef u).ac.out = s.ac.out := rfl
@[simp] theorem State.setRef_ac_ref (s : State) (u : Volt) : (s.setRef u).ac.ref = some u := rfl
@[simp] theorem State.setRef_ac_chan (s : State) (u : Volt) : (s.setRef u).ac.chan = s.ac.chan := rfl
@[simp] theorem State.setRef_ac_suspended (s : State) (u : Volt) : (s.setRef u).ac.suspended = s.ac.suspended := rfl
@[simp] theorem State.setRef_acReq (s : State) (u : Volt) : (s.setRef u).acReq = s.acReq := rfl
@[simp] theorem State.setRef_sleep (s : State) (u : Volt) : (s.setRef u).sleep = s.sleep := rfl
@[simp] theorem State.setRef_claims (s : State) (u : Volt) : (s.setRef u).claims = s.claims := rfl
@[simp] theorem State.setRef_init (s : State) (u : Volt) : (s.setRef u).init = s.init := rfl
@[simp] theorem State.setRef_trace (s : State) (u : Volt) : (s.setRef u).trace = s.trace := rfl
@[simp] theorem State.setRef_env (s : State) (u : Volt) : (s.setRef u).env = s.env := rfl
@[simp] theorem State.setRef_inbox (s : State) (u : Volt) : (s.setRef u).inbox = s.inbox := rfl
@[simp] theorem State.setRef_pin (s : State) (u : Volt) (n : PinIx) : (s.setRef u).pin n = s.pin n := rfl
@[simp] theorem State.setRef_pinctrl (s : State) (u : Volt) (n : PinIx) : (s.setRef u).pinctrl n = s.pinctrl n := rfl
@[simp] theorem State.setRef_isc (s : State) (u : Volt) (n : PinIx) : (s.setRef u).isc n = s.isc n := rfl
@[simp] theorem State.setRef_pullupen (s : State) (u : Volt) (n : PinIx) : (s.setRef u).pullupen n = s.pullupen n := rfl
@[simp] theorem State.setRef_subscribers (s : State) (u : Volt) (bus : BusId) :
    (s.setRef u).subscribers bus = s.subscribers bus := rfl
@[simp] theorem State.setRef_suspendedNow (s : State) (u : Volt) : (s.setRef u).suspendedNow = s.suspendedNow := rfl
@[simp] theorem State.setRef_acActive (s : State) (u : Volt) : (s.setRef u).acActive = s.acActive := rfl
@[simp] theorem State.setRef_acReqWanted (s : State) (u : Volt) : (s.setRef u).acReqWanted = s.acReqWanted := rfl
@[simp] theorem State.setRef_acEnable (s : State) (u : Volt) : (s.setRef u).acEnable = s.acEnable := rfl
@[simp] theorem State.setRef_acIntmode (s : State) (u : Volt) : (s.setRef u).acIntmode = s.acIntmode := rfl
@[simp] theorem State.setRef_acInvert (s : State) (u : Volt) : (s.setRef u).acInvert = s.acInvert := rfl
@[simp] theorem State.setRef_acIntEnable (s : State) (u : Volt) : (s.setRef u).acIntEnable = s.acIntEnable := rfl
@[simp] theorem State.setRef_hysteresisWidth (s : State) (u : Volt) :
    (s.setRef u).hysteresisWidth = s.hysteresisWidth := rfl
@[simp] theorem State.setRef_drivenState (s : State) (u : Volt) (n : PinIx) :
    (s.setRef u).drivenState n = s.drivenState n := rfl

/-! ### `setSuspended` -/

@[simp] theorem State.setSuspended_cfg (s : State) (b : Bool) : (s.setSuspended b).cfg = s.cfg := rfl
@[simp] theorem State.setSuspended_port (s : State) (b : Bool) : (s.setSuspended b).port = s.port := rfl
@[simp] theorem State.setSuspended_pins (s : State) (b : Bool) : (s.setSuspended b).pins = s.pins := rfl
@[simp] theorem State.setSuspended_subs (s : State) (b : Bool) : (s.setSuspended b).subs = s.subs := rfl
@[simp] theorem State.setSuspended_delivering (s : State) (b : Bool) :
    (s.setSuspended b).delivering = s.delivering := rfl
@[simp] theorem State.setSuspended_portReq (s : State) (b : Bool) : (s.setSuspended b).portReq = s.portReq := rfl
@[simp] theorem State.setSuspended_ac_ctrla (s : State) (b : Bool) : (s.setSuspended b).ac.ctrla = s.ac.ctrla := rfl
@[simp] theorem State.setSuspended_ac_muxctrla (s : State) (b : Bool) :
    (s.setSuspended b).ac.muxctrla = s.ac.muxctrla := rfl
@[simp] theorem State.setSuspended_ac_intctrl (s : State) (b : Bool) :
    (s.setSuspended b).ac.intctrl = s.ac.intctrl := rfl
@[simp] theorem State.setSuspended_ac_cmp (s : State) (b : Bool) : (s.setSuspended b).ac.cmp = s.ac.cmp := rfl
@[simp] theorem State.setSuspended_ac_raw (s : State) (b : Bool) : (s.setSuspended b).ac.raw = s.ac.raw := rfl
@[simp] theorem State.setSuspended_ac_out (s : State) (b : Bool) : (s.setSuspended b).ac.out = s.ac.out := rfl
@[simp] theorem State.setSuspended_ac_ref (s : State) (b : Bool) : (s.setSuspended b).ac.ref = s.ac.ref := rfl
@[simp] theorem State.setSuspended_ac_chan (s : State) (b : Bool) : (s.setSuspended b).ac.chan = s.ac.chan := rfl
@[simp] theorem State.setSuspended_ac_suspended (s : State) (b : Bool) : (s.setSuspended b).ac.suspended = b := rfl
@[simp] theorem State.setSuspended_acReq (s : State) (b : Bool) : (s.setSuspended b).acReq = s.acReq := rfl
@[simp] theorem State.setSuspended_sleep (s : State) (b : Bool) : (s.setSuspended b).sleep = s.sleep := rfl
@[simp] theorem State.setSuspended_claims (s : State) (b : Bool) : (s.setSuspended b).claims = s.claims := rfl
@[simp] theorem State.setSuspended_init (s : State) (b : Bool) : (s.setSuspended b).init = s.init := rfl
@[simp] theorem State.setSuspended_trace (s : State) (b : Bool) : (s.setSuspended b).trace = s.trace := rfl
@[simp] theorem State.setSuspended_env (s : State) (b : Bool) : (s.setSuspended b).env = s.env := rfl
@[simp] theorem State.setSuspended_inbox (s : State) (b : Bool) : (s.setSuspended b).inbox = s.inbox := rfl
@[simp] theorem State.setSuspended_pin (s : State) (b : Bool) (n : PinIx) : (s.setSuspended b).pin n = s.pin n := rfl
@[simp] theorem State.setSuspended_pinctrl (s : State) (b : Bool) (n : PinIx) :
    (s.setSuspended b).pinctrl n = s.pinctrl n := rfl
@[simp] theorem State.setSuspended_isc (s : State) (b : Bool) (n : PinIx) : (s.setSuspended b).isc n = s.isc n := rfl
@[simp] theorem State.setSuspended_pullupen (s : State) (b : Bool) (n : PinIx) :
    (s.setSuspended b).pullupen n = s.pullupen n := rfl
@[simp] theorem State.setSuspended_subscribers (s : State) (b : Bool) (bus : BusId) :
    (s.setSuspended b).subscribers bus = s.subscribers bus := rfl
@[simp] theorem State.setSuspended_suspendedNow (s : State) (b : Bool) :
    (s.setSuspended b).suspendedNow = s.suspendedNow := rfl
@[simp] theorem State.setSuspended_acReqWanted (s : State) (b : Bool) :
    (s.setSuspended b).acReqWanted = s.acReqWanted := rfl
@[simp] theorem State.setSuspended_acEnable (s : State) (b : Bool) : (s.setSuspended b).acEnable = s.acEnable := rfl
@[simp] theorem State.setSuspended_acIntmode (s : State) (b : Bool) : (s.setSuspended b).acIntmode = s.acIntmode := rfl
@[simp] theorem State.setSuspended_acInvert (s : State) (b : Bool) : (s.setSuspended b).acInvert = s.acInvert := rfl
@[simp] theorem State.setSuspended_acIntEnable (s : State) (b : Bool) :
    (s.setSuspended b).acIntEnable = s.acIntEnable := rfl
@[simp] theorem State.setSuspended_hysteresisWidth (s : State) (b : Bool) :
    (s.setSuspended b).hysteresisWidth = s.hysteresisWidth := rfl
@[simp] theorem State.setSuspended_drivenState (s : State) (b : Bool) (n : PinIx) :
    (s.setSuspended b).drivenState n = s.drivenState n := rfl

/-! ### `setChan` -/

@[simp] theorem State.setChan_cfg (s : State) (k : SourceId) (u : Volt) : (s.setChan k u).cfg = s.cfg := rfl
@[simp] theorem State.setChan_port (s : State) (k : SourceId) (u : Volt) : (s.setChan k u).port = s.port := rfl
@[simp] theorem State.setChan_pins (s : State) (k : SourceId) (u : Volt) : (s.setChan k u).pins = s.pins := rfl
@[simp] theorem State.setChan_subs (s : State) (k : SourceId) (u : Volt) : (s.setChan k u).subs = s.subs := rfl
@[simp] theorem State.setChan_delivering (s : State) (k : SourceId) (u : Volt) :
    (s.setChan k u).delivering = s.delivering := rfl
@[simp] theorem State.setChan_portReq (s : State) (k : SourceId) (u : Volt) : (s.setChan k u).portReq = s.portReq := rfl
@[simp] theorem State.setChan_ac_ctrla (s : State) (k : SourceId) (u : Volt) :
    (s.setChan k u).ac.ctrla = s.ac.ctrla := rfl
@[simp] theorem State.setChan_ac_muxctrla (s : State) (k : SourceId) (u : Volt) :
    (s.setChan k u).ac.muxctrla = s.ac.muxctrla := rfl
@[simp] theorem State.setChan_ac_intctrl (s : State) (k : SourceId) (u : Volt) :
    (s.setChan k u).ac.intctrl = s.ac.intctrl := rfl
@[simp] theorem State.setChan_ac_cmp (s : State) (k : SourceId) (u : Volt) : (s.setChan k u).ac.cmp = s.ac.cmp := rfl
@[simp] theorem State.setChan_ac_raw (s : State) (k : SourceId) (u : Volt) : (s.setChan k u).ac.raw = s.ac.raw := rfl
@[simp] theorem State.setChan_ac_out (s : State) (k : SourceId) (u : Volt) : (s.setChan k u).ac.out = s.ac.out := rfl
@[simp] theorem State.setChan_ac_ref (s : State) (k : SourceId) (u : Volt) : (s.setChan k u).ac.ref = s.ac.ref := rfl
@[simp] theorem State.setChan_ac_chan (s : State) (k : SourceId) (u : Volt) :
    (s.setChan k u).ac.chan = chanSet k.toNat u s.ac.chan := rfl
@[simp] theorem State.setChan_ac_suspended (s : State) (k : SourceId) (u : Volt) :
    (s.setChan k u).ac.suspended = s.ac.suspended := rfl
@[simp] theorem State.setChan_acReq (s : State) (k : SourceId) (u : Volt) : (s.setChan k u).acReq = s.acReq := rfl
@[simp] theorem State.setChan_sleep (s : State) (k : SourceId) (u : Volt) : (s.setChan k u).sleep = s.sleep := rfl
@[simp] theorem State.setChan_claims (s : State) (k : SourceId) (u : Volt) : (s.setChan k u).claims = s.claims := rfl
@[simp] theorem State.setChan_init (s : State) (k : SourceId) (u : Volt) : (s.setChan k u).init = s.init := rfl
@[simp] theorem State.setChan_trace (s : State) (k : SourceId) (u : Volt) : (s.setChan k u).trace = s.trace := rfl
@[simp] theorem State.setChan_env (s : State) (k : SourceId) (u : Volt) : (s.setChan k u).env = s.env := rfl
@[simp] theorem State.setChan_inbox (s : State) (k : SourceId) (u : Volt) : (s.setChan k u).inbox = s.inbox := rfl
@[simp] theorem State.setChan_pin (s : State) (k : SourceId) (u : Volt) (n : PinIx) :
    (s.setChan k u).pin n = s.pin n := rfl
@[simp] theorem State.setChan_pinctrl (s : State) (k : SourceId) (u : Volt) (n : PinIx) :
    (s.setChan k u).pinctrl n = s.pinctrl n := rfl
@[simp] theorem State.setChan_isc (s : State) (k : SourceId) (u : Volt) (n : PinIx) :
    (s.setChan k u).isc n = s.isc n := rfl
@[simp] theorem State.setChan_pullupen (s : State) (k : SourceId) (u : Volt) (n : PinIx) :
    (s.setChan k u).pullupen n = s.pullupen n := rfl
@[simp] theorem State.setChan_subscribers (s : State) (k : SourceId) (u : Volt) (bus : BusId) :
    (s.setChan k u).subscribers bus = s.subscribers bus := rfl
@[simp] theorem State.setChan_suspendedNow (s : State) (k : SourceId) (u : Volt) :
    (s.setChan k u).suspendedNow = s.suspendedNow := rfl
@[simp] theorem State.setChan_acActive (s : State) (k : SourceId) (u : Volt) :
    (s.setChan k u).acActive = s.acActive := rfl
@[simp] theorem State.setChan_acReqWanted (s : State) (k : SourceId) (u : Volt) :
    (s.setChan k u).acReqWanted = s.acReqWanted := rfl
@[simp] theorem State.setChan_acEnable (s : State) (k : SourceId) (u : Volt) :
    (s.setChan k u).acEnable = s.acEnable := rfl
@[simp] theorem State.setChan_acIntmode (s : State) (k : SourceId) (u : Volt) :
    (s.setChan k u).acIntmode = s.acIntmode := rfl
@[simp] theorem State.setChan_acInvert (s : State) (k : SourceId) (u : Volt) :
    (s.setChan k u).acInvert = s.acInvert := rfl
@[simp] theorem State.setChan_acIntEnable (s : State) (k : SourceId) (u : Volt) :
    (s.setChan k u).acIntEnable = s.acIntEnable := rfl
@[simp] theorem State.setChan_hysteresisWidth (s : State) (k : SourceId) (u : Volt) :
    (s.setChan k u).hysteresisWidth = s.hysteresisWidth := rfl
@[simp] theorem State.setChan_drivenState (s : State) (k : SourceId) (u : Volt) (n : PinIx) :
    (s.setChan k u).drivenState n = s.drivenState n := rfl

/-! ### `clearPort` -/

@[simp] theorem State.clearPort_cfg (s : State) : s.clearPort.cfg = s.cfg := rfl
@[simp] theorem State.clearPort_port (s : State) : s.clearPort.port = PortRegs.reset := rfl
@[simp] theorem State.clearPort_pins (s : State) : s.clearPort.pins = s.pins := rfl
@[simp] theorem State.clearPort_subs (s : State) : s.clearPort.subs = s.subs := rfl
@[simp] theorem State.clearPort_delivering (s : State) : s.clearPort.delivering = s.delivering := rfl
@[simp] theorem State.clearPort_portReq (s : State) : s.clearPort.portReq = false := rfl
@[simp] theorem State.clearPort_ac (s : State) : s.clearPort.ac = s.ac := rfl
@[simp] theorem State.clearPort_acReq (s : State) : s.clearPort.acReq = s.acReq := rfl
@[simp] theorem State.clearPort_sleep (s : State) : s.clearPort.sleep = s.sleep := rfl
@[simp] theorem State.clearPort_claims (s : State) : s.clearPort.claims = s.claims := rfl
@[simp] theorem State.clearPort_init (s : State) : s.clearPort.init = s.init := rfl
@[simp] theorem State.clearPort_trace (s : State) : s.clearPort.trace = s.trace ++ [.cancel s.cfg.portVector] := rfl
@[simp] theorem State.clearPort_env (s : State) : s.clearPort.env = s.env := rfl
@[simp] theorem State.clearPort_inbox (s : State) : s.clearPort.inbox = s.inbox := rfl
@[simp] theorem State.clearPort_pin (s : State) (n : PinIx) : s.clearPort.pin n = s.pin n := rfl
@[simp] theorem State.clearPort_subscribers (s : State) (bus : BusId) :
    s.clearPort.subscribers bus = s.subscribers bus := rfl
@[simp] theorem State.clearPort_suspendedNow (s : State) : s.clearPort.suspendedNow = s.suspendedNow := rfl
@[simp] theorem State.clearPort_acActive (s : State) : s.clearPort.acActive = s.acActive := rfl
@[simp] theorem State.clearPort_acReqWanted (s : State) : s.clearPort.acReqWanted = s.acReqWanted := rfl
@[simp] theorem State.clearPort_acEnable (s : State) : s.clearPort.acEnable = s.acEnable := rfl
@[simp] theorem State.clearPort_acIntmode (s : State) : s.clearPort.acIntmode = s.acIntmode := rfl
@[simp] theorem State.clearPort_acInvert (s : State) : s.clearPort.acInvert = s.acInvert := rfl
@[simp] theorem State.clearPort_acIntEnable (s : State) : s.clearPort.acIntEnable = s.acIntEnable := rfl
@[simp] theorem State.clearPort_hysteresisWidth (s : State) : s.clearPort.hysteresisWidth = s.hysteresisWidth := rfl
@[simp] theorem State.clearPort_pinctrl (s : State) (k : PinIx) : s.clearPort.pinctrl k = 0 := by
  simp [State.pinctrl, PortRegs.reset]

/-! ### `clearAc` -/

@[simp] theorem State.clearAc_cfg (s : State) : s.clearAc.cfg = s.cfg := rfl
@[simp] theorem State.clearAc_port (s : State) : s.clearAc.port = s.port := rfl
@[simp] theorem State.clearAc_pins (s : State) : s.clearAc.pins = s.pins := rfl
@[simp] theorem State.clearAc_subs (s : State) : s.clearAc.subs = s.subs := rfl
@[simp] theorem State.clearAc_delivering (s : State) : s.clearAc.delivering = s.delivering := rfl
@[simp] theorem State.clearAc_portReq (s : State) : s.clearAc.portReq = s.portReq := rfl
@[simp] theorem State.clearAc_ac_ctrla (s : State) : s.clearAc.ac.ctrla = 0 := rfl
@[simp] theorem State.clearAc_ac_muxctrla (s : State) : s.clearAc.ac.muxctrla = 0 := rfl
@[simp] theorem State.clearAc_ac_intctrl (s : State) : s.clearAc.ac.intctrl = 0 := rfl
@[simp] theorem State.clearAc_ac_cmp (s : State) : s.clearAc.ac.cmp = false := rfl
@[simp] theorem State.clearAc_ac_raw (s : State) : s.clearAc.ac.raw = false := rfl
@[simp] theorem State.clearAc_ac_out (s : State) : s.clearAc.ac.out = s.ac.out := rfl
@[simp] theorem State.clearAc_ac_ref (s : State) : s.clearAc.ac.ref = s.ac.ref := rfl
@[simp] theorem State.clearAc_ac_chan (s : State) : s.clearAc.ac.chan = s.ac.chan := rfl
@[simp] theorem State.clearAc_ac_suspended (s : State) : s.clearAc.ac.suspended = (s.setCtrla 0).suspendedNow := rfl
@[simp] theorem State.clearAc_acReq (s : State) : s.clearAc.acReq = s.acReq := rfl
@[simp] theorem State.clearAc_sleep (s : State) : s.clearAc.sleep = s.sleep := rfl
@[simp] theorem State.clearAc_claims (s : State) : s.clearAc.claims = s.claims := rfl
@[simp] theorem State.clearAc_init (s : State) : s.clearAc.init = s.init := rfl
@[simp] theorem State.clearAc_trace (s : State) : s.clearAc.trace = s.trace := rfl
@[simp] theorem State.clearAc_env (s : State) : s.clearAc.env = s.env := rfl
@[simp] theorem State.clearAc_inbox (s : State) : s.clearAc.inbox = s.inbox := rfl
@[simp] theorem State.clearAc_pin (s : State) (n : PinIx) : s.clearAc.pin n = s.pin n := rfl
@[simp] theorem State.clearAc_pinctrl (s : State) (n : PinIx) : s.clearAc.pinctrl n = s.pinctrl n := rfl
@[simp] theorem State.clearAc_isc (s : State) (n : PinIx) : s.clearAc.isc n = s.isc n := rfl
@[simp] theorem State.clearAc_pullupen (s : State) (n : PinIx) : s.clearAc.pullupen n = s.pullupen n := rfl
@[simp] theorem State.clearAc_subscribers (s : State) (bus : BusId) :
    s.clearAc.subscribers bus = s.subscribers bus := rfl
@[simp] theorem State.clearAc_drivenState (s : State) (n : PinIx) : s.clearAc.drivenState n = s.drivenState n := rfl

/-! ### `setSubscribers` -/

@[simp] theorem State.setSubscribers_subscribers (s : State) (bus b : BusId) (l : List Subscriber) :
    (s.setSubscribers bus l).subscribers b = if b = bus then l else s.subscribers b := by
  cases bus <;> cases b <;> simp only [State.setSubscribers, State.subscribers, reduceCtorEq, if_true, if_false]
  rename_i i k
  simp only [Fin.getElem_fin, Vector.getElem_set, BusId.pin.injEq]
  by_cases h : k = i
  · subst h; simp
  · rw [if_neg (fun e => h (Fin.ext e.symm)), if_neg h]

@[simp] theorem State.setSubscribers_cfg (s : State) (bus : BusId) (l : List Subscriber) :
    (s.setSubscribers bus l).cfg = s.cfg := by
  cases bus <;> rfl
@[simp] theorem State.setSubscribers_port (s : State) (bus : BusId) (l : List Subscriber) :
    (s.setSubscribers bus l).port = s.port := by
  cases bus <;> rfl
@[simp] theorem State.setSubscribers_pins (s : State) (bus : BusId) (l : List Subscriber) :
    (s.setSubscribers bus l).pins = s.pins := by
  cases bus <;> rfl
@[simp] theorem State.setSubscribers_delivering (s : State) (bus : BusId) (l : List Subscriber) :
    (s.setSubscribers bus l).delivering = s.delivering := by
  cases bus <;> rfl
@[simp] theorem State.setSubscribers_portReq (s : State) (bus : BusId) (l : List Subscriber) :
    (s.setSubscribers bus l).portReq = s.portReq := by
  cases bus <;> rfl
@[simp] theorem State.setSubscribers_ac (s : State) (bus : BusId) (l : List Subscriber) :
    (s.setSubscribers bus l).ac = s.ac := by
  cases bus <;> rfl
@[simp] theorem State.setSubscribers_acReq (s : State) (bus : BusId) (l : List Subscriber) :
    (s.setSubscribers bus l).acReq = s.acReq := by
  cases bus <;> rfl
@[simp] theorem State.setSubscribers_sleep (s : State) (bus : BusId) (l : List Subscriber) :
    (s.setSubscribers bus l).sleep = s.sleep := by
  cases bus <;> rfl
@[simp] theorem State.setSubscribers_claims (s : State) (bus : BusId) (l : List Subscriber) :
    (s.setSubscribers bus l).claims = s.claims := by
  cases bus <;> rfl
@[simp] theorem State.setSubscribers_init (s : State) (bus : BusId) (l : List Subscriber) :
    (s.setSubscribers bus l).init = s.init := by
  cases bus <;> rfl
@[simp] theorem State.setSubscribers_trace (s : State) (bus : BusId) (l : List Subscriber) :
    (s.setSubscribers bus l).trace = s.trace := by
  cases bus <;> rfl
@[simp] theorem State.setSubscribers_env (s : State) (bus : BusId) (l : List Subscriber) :
    (s.setSubscribers bus l).env = s.env := by
  cases bus <;> rfl
@[simp] theorem State.setSubscribers_inbox (s : State) (bus : BusId) (l : List Subscriber) :
    (s.setSubscribers bus l).inbox = s.inbox := by
  cases bus <;> rfl

end Sys2Proof.Machine
end

