-- ==== Sys2Proof/Laws/Bits.lean ====
section
/-! SUPPORT. Bits of a byte: what `bitAt` reads of each operation of R11 and of `withBit`, and the masks of R30. -/

namespace Sys2Proof.Machine

open Sys2Proof

theorem bitAt_ext {a b : Byte} (h : ∀ i, bitAt a i = bitAt b i) : a = b :=
  BitVec.eq_of_getLsbD_eq fun i hi => h ⟨i, hi⟩

@[simp] theorem bitAt_zero (i : PinIx) : bitAt 0#8 i = false := by simp [bitAt]

@[simp] theorem bitAt_and (a b : Byte) (i : PinIx) : bitAt (a &&& b) i = (bitAt a i && bitAt b i) := by simp [bitAt]

@[simp] theorem bitAt_or (a b : Byte) (i : PinIx) : bitAt (a ||| b) i = (bitAt a i || bitAt b i) := by simp [bitAt]

@[simp] theorem bitAt_xor (a b : Byte) (i : PinIx) : bitAt (a ^^^ b) i = (bitAt a i ^^ bitAt b i) := by simp [bitAt]

@[simp] theorem bitAt_not (a : Byte) (i : PinIx) : bitAt (~~~a) i = !bitAt a i := by
  have := i.isLt
  simp [bitAt, this]

theorem bitAt_one_shift (i k : PinIx) : bitAt (1#8 <<< i.val) k = decide (k = i) := by
  revert i k; decide

@[simp] theorem bitAt_withBit (v : Byte) (i : PinIx) (b : Bool) (k : PinIx) :
    bitAt (withBit v i b) k = if k = i then b else bitAt v k := by
  unfold withBit
  cases b <;> by_cases h : k = i <;> simp [bitAt_one_shift, h]

@[simp] theorem bitAt_clearOnes (v m : Byte) (i : PinIx) : bitAt (clearOnes v m) i = (bitAt v i && !bitAt m i) := by
  simp [clearOnes]

theorem eq_zero_iff_bits (v : Byte) : v = 0 ↔ ∀ i, bitAt v i = false :=
  ⟨fun h i => by subst h; exact bitAt_zero i, fun h => bitAt_ext fun i => by simp [h i]⟩

theorem ne_zero_of_bit {v : Byte} {i : PinIx} (h : bitAt v i = true) : v ≠ 0 := by
  rintro rfl; simp at h

/-- A byte is within a mask iff each of its bits is (R30, R154). -/
theorem masked_iff (v m : Byte) : v &&& ~~~m = 0 ↔ ∀ i, bitAt v i = true → bitAt m i = true := by
  rw [eq_zero_iff_bits]
  refine forall_congr' fun i => ?_
  cases h1 : bitAt v i <;> cases h2 : bitAt m i <;> simp [h1, h2]

@[simp] theorem masked_and_right (v m : Byte) : (v &&& m) &&& ~~~m = 0 := by
  rw [masked_iff]; intro i h; simp at h; exact h.2

theorem masked_withBit {v m : Byte} {i : PinIx} {b : Bool} (hm : bitAt m i = true) (h : v &&& ~~~m = 0) :
    withBit v i b &&& ~~~m = 0 := by
  rw [masked_iff] at *
  intro k hk
  by_cases e : k = i
  · rw [e]; exact hm
  · rw [bitAt_withBit, if_neg e] at hk; exact h k hk

theorem masked_clearOnes {v m w : Byte} (h : v &&& ~~~m = 0) : clearOnes v w &&& ~~~m = 0 := by
  rw [masked_iff] at *
  intro i hi
  simp at hi
  exact h i hi.1

/-- `hasPin` is a bit of `PIN_MASK`. -/
theorem hasPin_eq (c : Config) (i : PinIx) : c.hasPin i = bitAt c.pinMask i := rfl

@[simp] theorem mem_pinOrder (i : PinIx) : i ∈ pinOrder := by revert i; decide

theorem pinOrder_nodup : pinOrder.Nodup := by decide

end Sys2Proof.Machine
end

