-- ==== Sys2Proof/Laws/Chan.lean ====
section
/-! SUPPORT. The sparse map `ac.chan` (R42): a delivery is read back, leaves every other source alone and keeps the
canonical form, and maps in that form with equal values are equal. -/

namespace Sys2Proof.Machine

open Sys2Proof

theorem chanGet_cons (e : Nat × Volt) (l : List (Nat × Volt)) (k : Nat) :
    chanGet (e :: l) k = if e.1 = k then some e.2 else chanGet l k := by
  simp only [chanGet, List.find?_cons]
  by_cases h : e.1 = k
  · simp [h]
  · rw [beq_eq_false_iff_ne.2 h, if_neg h]

theorem chanGet_chanSet (l : List (Nat × Volt)) (k j : Nat) (u : Volt) (h : chanWf l = true) :
    chanGet (chanSet k u l) j = if j = k then some u else chanGet l j := by
  induction l with
  | nil =>
    simp only [chanSet, chanGet_cons]
    by_cases e : j = k
    · simp [e]
    · rw [if_neg (fun x => e x.symm), if_neg e]
  | cons e l ih =>
    have hp : (e :: l).Pairwise fun a b => a.1 < b.1 := by simpa [chanWf] using h
    have hl : chanWf l = true := by simpa [chanWf] using (List.pairwise_cons.1 hp).2
    by_cases h1 : k < e.1
    · simp only [chanSet, if_pos h1, chanGet_cons]
      by_cases ej : j = k
      · simp [ej]
      · rw [if_neg (fun x => ej x.symm), if_neg ej]
    · by_cases h2 : k = e.1
      · simp only [chanSet, if_neg h1, if_pos h2, chanGet_cons]
        by_cases ej : j = k
        · simp [ej]
        · rw [if_neg (fun x => ej x.symm), if_neg ej, if_neg (fun x => ej (by omega))]
      · simp only [chanSet, if_neg h1, if_neg h2, chanGet_cons, ih hl]
        by_cases ej : j = k
        · rw [if_neg (fun x => h2 (by omega)), if_pos ej, if_pos ej]
        · rw [if_neg ej, if_neg ej]

theorem mem_chanSet {l : List (Nat × Volt)} {k : Nat} {u : Volt} {x : Nat × Volt} (h : x ∈ chanSet k u l) :
    x.1 = k ∨ x ∈ l := by
  induction l with
  | nil => simp only [chanSet, List.mem_singleton] at h; exact .inl (by rw [h])
  | cons e l ih =>
    simp only [chanSet] at h
    split at h
    · rcases List.mem_cons.1 h with rfl | h
      · exact .inl rfl
      · exact .inr h
    · split at h
      · rcases List.mem_cons.1 h with rfl | h
        · exact .inl rfl
        · exact .inr (List.mem_cons_of_mem _ h)
      · rcases List.mem_cons.1 h with rfl | h
        · exact .inr (List.mem_cons_self ..)
        · exact (ih h).imp id (List.mem_cons_of_mem _)

/-- A delivery keeps the canonical form. -/
theorem chanWf_chanSet (l : List (Nat × Volt)) (k : Nat) (u : Volt) (h : chanWf l = true) :
    chanWf (chanSet k u l) = true := by
  induction l with
  | nil => simp [chanSet, chanWf]
  | cons e l ih =>
    have hp : (e :: l).Pairwise fun a b => a.1 < b.1 := by simpa [chanWf] using h
    obtain ⟨he, hl⟩ := List.pairwise_cons.1 hp
    have hl' : chanWf l = true := by simpa [chanWf] using hl
    simp only [chanSet]
    split
    · rename_i h1
      have : ((k, u) :: e :: l).Pairwise fun a b => a.1 < b.1 := by
        refine List.pairwise_cons.2 ⟨fun b hb => ?_, hp⟩
        rcases List.mem_cons.1 hb with rfl | hb
        · exact h1
        · exact Nat.lt_trans h1 (he b hb)
      simpa [chanWf] using this
    · split
      · rename_i h2
        have : ((k, u) :: l).Pairwise fun a b => a.1 < b.1 :=
          List.pairwise_cons.2 ⟨fun b hb => by have := he b hb; simp only at *; omega, hl⟩
        simpa [chanWf] using this
      · rename_i h1 h2
        have h3 := ih hl'
        have : (e :: chanSet k u l).Pairwise fun a b => a.1 < b.1 := by
          refine List.pairwise_cons.2 ⟨fun b hb => ?_, by simpa [chanWf] using h3⟩
          rcases mem_chanSet hb with e' | hb
          · omega
          · exact he b hb
        simpa [chanWf] using this

@[simp] theorem chanWf_nil : chanWf [] = true := rfl

/-- Nothing is delivered at reset, and the map is in the canonical form. -/
theorem chanWf_reset (c : Config) : chanWf (State.resetWith c).ac.chan = true := rfl

theorem State.setChan_chanValue (s : State) (k j : SourceId) (u : Volt) (h : chanWf s.ac.chan = true) :
    (s.setChan k u).chanValue j = if j = k then some u else s.chanValue j := by
  simp only [State.chanValue, State.setChan, chanGet_chanSet _ _ _ _ h]
  by_cases e : j = k
  · simp [e]
  · rw [if_neg e, if_neg (fun x => e (BitVec.eq_of_toNat_eq x))]

end Sys2Proof.Machine
end

