-- ==== Sys2Proof/Laws/Claims.lean ====
section
/-! SUPPORT. The claim table after INIT (R150, R343): the entry of a claimed address is the one its region registered,
with the offset and the mask of R155; an address in no region has none. -/

namespace Sys2Proof.Machine

open Sys2Proof

theorem claimAt_of_mem {l : List Claim} {e : Claim} (h : (l.map Claim.addr).Nodup) (he : e ∈ l) :
    claimAt l e.addr = some e := by
  induction l with
  | nil => cases he
  | cons x l ih =>
    simp only [List.map_cons, List.nodup_cons] at h
    simp only [claimAt, List.find?_cons]
    rcases List.mem_cons.1 he with rfl | he
    · simp
    · have : x.addr ≠ e.addr := fun q => h.1 (q ▸ List.mem_map_of_mem he)
      simp only [beq_eq_false_iff_ne.2 this]
      exact ih h.2 he

theorem mem_regionClaims {c : Config} {r : Region} {off : Nat} (hp : c.present r = true) (ho : off < c.span r) :
    (⟨c.base r + off, regionOwner r, off, c.maskAt r off⟩ : Claim) ∈ c.regionClaims r := by
  simp only [Config.regionClaims, hp, if_true, List.mem_map, List.mem_range]
  exact ⟨off, ho, rfl⟩

theorem regionClaims_subset (c : Config) (r : Region) : c.regionClaims r ⊆ c.claimTable := by
  intro e he
  cases r <;> simp [Config.claimTable, he]

/-- The claim of an offset below its region's span. -/
theorem claimAt_claimTable {c : Config} {r : Region} {off : Nat} (h : c.addressesFree = true)
    (hc : c.claimsOffset r off = true) :
    claimAt c.claimTable (c.base r + off) = some ⟨c.base r + off, regionOwner r, off, c.maskAt r off⟩ := by
  simp only [Config.claimsOffset, Bool.and_eq_true, decide_eq_true_eq] at hc
  simp only [Config.addressesFree, Bool.and_eq_true, decide_eq_true_eq] at h
  exact claimAt_of_mem h.1 (regionClaims_subset c r (mem_regionClaims hc.1 hc.2))

theorem claimAt_of_initOk {s : State} {r : Region} {off : Nat} (h : s.cfg.initOk = true)
    (ht : s.claims = s.cfg.claimTable) (hc : s.cfg.claimsOffset r off = true) :
    claimAt s.claims (s.cfg.base r + off) =
      some ⟨s.cfg.base r + off, regionOwner r, off, s.cfg.maskAt r off⟩ := by
  rw [ht]
  simp only [Config.initOk, Bool.and_eq_true] at h
  exact claimAt_claimTable h.1.1 hc

/-- In the default layout every offset of the region tables of R93 to R95 is claimed (the VPORT's with `HAS_VPORT`). -/
theorem claimsOffset_of_defaultLayout {c : Config} (h : c.defaultLayout = true) (off : Nat) :
    c.claimsOffset .port off = decide (off < 0x20) ∧
    c.claimsOffset .vport off = (c.hasVport && decide (off < 4)) ∧
    c.claimsOffset .ac off = decide (off < 8) := by
  simp only [Config.defaultLayout, Bool.and_eq_true, beq_iff_eq] at h
  obtain ⟨⟨⟨-, h1⟩, h2⟩, h3⟩ := h
  simp [Config.claimsOffset, Config.present, Config.span, h1, h2, h3]

end Sys2Proof.Machine
end

