-- ==== Sys2Proof/Laws/Ops.lean ====
section
/-! SUPPORT. What each shared operation can do, said once: if it answers a next state, then that state came about in one
of the ways listed. Later proofs cite these and do not unfold the operations. -/

namespace Sys2Proof.Machine

open Sys2Proof

/-! ## Sequencing -/

@[simp] theorem andThen_next (s : State) (k : State → Res) : andThen (.next s) k = k s := rfl

@[simp] theorem andThen_fault (f : Fault) (k : State → Res) : andThen (.fault f) k = .fault f := rfl

@[simp] theorem andThen_refused (q : Refusal) (k : State → Res) : andThen (.refused q) k = .refused q := rfl

theorem andThen_eq_next {r : Res} {k : State → Res} {t : State} :
    andThen r k = .next t ↔ ∃ u, r = .next u ∧ k u = .next t := by
  cases r <;> simp [andThen]

theorem andThen_eq_fault {r : Res} {k : State → Res} {f : Fault} :
    andThen r k = .fault f ↔ r = .fault f ∨ ∃ u, r = .next u ∧ k u = .fault f := by
  cases r <;> simp [andThen]

/-! ## The request line of the comparator -/

/-- `updateAcReq()` (R262): it makes `acReq` what is wanted and reports a change, and does nothing else. -/
theorem State.updateAcReq_eq (s : State) :
    s.updateAcReq = { s with
      acReq := s.acReqWanted
      trace := s.trace ++
        (if s.acReqWanted && !s.acReq then [.raise s.cfg.acVector]
         else if !s.acReqWanted && s.acReq then [.cancel s.cfg.acVector] else []) } := by
  unfold State.updateAcReq State.emit
  generalize s.acReqWanted = w
  obtain ⟨cfg, port, pins, subs, del, portReq, ac, acReq, sleep, claims, init, trace, env, inbox⟩ := s
  cases w <;> cases acReq <;> simp

/-! ## The signal bus -/

theorem runActions_nil (h : Handler) (s : State) : runActions h [] s = .next s := rfl

theorem runActions_cons (h : Handler) (a : Action) (l : List Action) (s : State) :
    runActions h (a :: l) s = andThen (h a s) (runActions h l) := rfl

/-- A hook outside the block is reported (R49) and does what the environment says. -/
theorem callOutside_next {h : Handler} {bus : BusId} {id : SignalId} {p : Payload} {tag : Int} {s t : State}
    (e : callOutside h bus id p tag s = .next t) :
    (s.env = [] ∧ t = s.emit (.signal bus id p tag)) ∨
    ∃ r rest, s.env = r :: rest ∧
      runActions h r { s.emit (.signal bus id p tag) with env := rest } = .next t := by
  unfold callOutside at e
  simp only [State.emit_env] at e
  split at e
  · rename_i h0; injection e with e; exact .inl ⟨h0, e.symm⟩
  · rename_i r rest h0; exact .inr ⟨r, rest, h0, e⟩

theorem deliver_nil (call : Subscriber → State → Res) (bus : BusId) (snap : List Subscriber) (s : State) :
    deliver call bus snap [] s = .next s := rfl

/-- Each entry is called, and the list is the same after it (R130, R132). -/
theorem deliver_cons_next {call : Subscriber → State → Res} {bus : BusId} {snap l : List Subscriber} {x : Subscriber}
    {s t : State} (e : deliver call bus snap (x :: l) s = .next t) :
    ∃ u, call x s = .next u ∧ u.subscribers bus = snap ∧ deliver call bus snap l u = .next t := by
  simp only [deliver, andThen_eq_next] at e
  obtain ⟨u, hu, e⟩ := e
  split at e
  · exact ⟨u, hu, ‹_›, e⟩
  · cases e

/-- After a delivery the bus's list is the one the raise began with (R132). -/
theorem deliver_list {call : Subscriber → State → Res} {bus : BusId} {snap l : List Subscriber} {s t : State}
    (e : deliver call bus snap l s = .next t) (hl : s.subscribers bus = snap) : t.subscribers bus = snap := by
  induction l generalizing s with
  | nil => injection e with e; rw [← e, hl]
  | cons x l ih =>
    obtain ⟨u, -, hu, e⟩ := deliver_cons_next e
    exact ih e hu

/-- A raise marks its bus as delivering, delivers, and takes the mark off (R130). -/
theorem signalRaise_next {call : Subscriber → State → Res} {bus : BusId} {s t : State}
    (e : signalRaise call bus s = .next t) :
    bus ∉ s.delivering ∧ ∃ u,
      deliver call bus (s.subscribers bus) (s.subscribers bus) { s with delivering := bus :: s.delivering } = .next u ∧
      t = { u with delivering := u.delivering.erase bus } := by
  unfold signalRaise at e
  split at e
  · cases e
  · refine ⟨‹_›, ?_⟩
    obtain ⟨u, hu, e⟩ := andThen_eq_next.1 e
    injection e with e
    exact ⟨u, hu, e.symm⟩

/-! ## What INIT registered -/

theorem filter_isPort_ext (l : List ExtHook) : (l.map subscriberOf).filter Subscriber.isPort = [] := by
  induction l with
  | nil => rfl
  | cons e l ih => exact ih

/-- The port's hook stands once on an existing pin's list, with the pin's index, and on no other list (R35, R220). -/
theorem State.Registered.pinHooks {s : State} (r : s.Registered) (i : PinIx) :
    (s.subscribers (.pin i)).filter Subscriber.isPort = if s.cfg.hasPin i then [.port i] else [] := by
  simp only [State.subscribers, r.subs, Config.subscriptions, Fin.getElem_fin, Vector.getElem_ofFn, Config.pinList]
  split
  · rw [List.filter_append, filter_isPort_ext, List.filter_cons, if_pos (by rfl), filter_isPort_ext]; rfl
  · rfl

theorem State.Registered.portValueHooks {s : State} (r : s.Registered) :
    (s.subscribers .portValue).filter Subscriber.isPort = [] := by
  simp only [State.subscribers, r.subs, Config.subscriptions, filter_isPort_ext]

theorem State.Registered.acOutHooks {s : State} (r : s.Registered) :
    (s.subscribers .acOut).filter Subscriber.isPort = [] := by
  simp only [State.subscribers, r.subs, Config.subscriptions, filter_isPort_ext]

/-! ## Pins -/

/-- A drive does nothing where the pin is in the state already, else it sets the pin and raises its bus (R124). -/
theorem drive_next {h : Handler} {i : PinIx} {st : PinState} {s t : State} (e : drive h i st s = .next t) :
    (s.pin i = some st ∧ t = s) ∨
    (s.pin i ≠ some st ∧ signalRaise (callPinHook h i st) (.pin i) (s.setPin i st) = .next t) := by
  unfold drive at e
  split at e
  · injection e with e; exact .inl ⟨‹_›, e.symm⟩
  · exact .inr ⟨‹_›, e⟩

/-- The port's hook forwards Shorted; else it records the level, with the value signal where it changed, and then sets
the flag of a matching condition, unless a gated port's inputs do not sense (R222, R230). -/
theorem portHook_next {h : Handler} {st : PinState} {i : PinIx} {s t : State} (e : portHook h st i s = .next t) :
    (st = .shorted ∧ t = s.emit (.pinShorted ⟨s.cfg.portLetter, i⟩)) ∨
    (st ≠ .shorted ∧ s.inputsSense = false ∧ t = s) ∨
    (st ≠ .shorted ∧ s.inputsSense = true ∧ ∃ u,
      ((pinLevel st = bitAt s.port.inp i ∧ u = s) ∨
        (pinLevel st ≠ bitAt s.port.inp i ∧
          raiseOutside h .portValue .portValue (.portByte (withBit s.port.inp i (pinLevel st)))
            (s.setIn (withBit s.port.inp i (pinLevel st))) = .next u)) ∧
      t = u.flagPin i (senseHolds (u.isc i) (bitAt s.port.inp i) (pinLevel st))) := by
  unfold portHook at e
  split at e
  · injection e with e; exact .inl ⟨‹_›, e.symm⟩
  · rename_i hsh
    split at e
    · injection e with e; exact .inr (.inl ⟨hsh, ‹_›, e.symm⟩)
    · rename_i hin
      refine .inr (.inr ⟨hsh, by simpa using hin, ?_⟩)
      obtain ⟨u, hu, e⟩ := andThen_eq_next.1 e
      injection e with e
      refine ⟨u, ?_, e.symm⟩
      split at hu
      · rename_i hne; exact .inr ⟨by simpa using hne, by simpa using hu⟩
      · rename_i hne; injection hu with hu; exact .inl ⟨by simpa using hne, hu.symm⟩

/-- Setting a flag (R224, R228): nothing where the condition does not hold or the bit is set, else the bit is set and the
vector raised. -/
theorem State.flagPin_eq (s : State) (i : PinIx) (cond : Bool) :
    s.flagPin i cond = s ∨
    (cond = true ∧ bitAt s.port.intflags i = false ∧
      s.flagPin i cond = (s.setIntflags (withBit s.port.intflags i true)).raisePort) := by
  unfold State.flagPin
  split
  · rename_i h
    simp only [Bool.and_eq_true, Bool.not_eq_true'] at h
    exact .inr ⟨h.1, h.2, rfl⟩
  · exact .inl rfl

/-- The level check of R183 does one of four things. -/
theorem State.levelCheck_eq (s : State) (n : PinIx) :
    s.levelCheck n = s ∨
    (bitAt s.port.inp n = false ∧ s.isc n = .level ∧ bitAt s.port.intflags n = false ∧
      s.levelCheck n = (s.setIntflags (withBit s.port.intflags n true)).raisePort) ∨
    (s.port.intflags = 0 ∧ s.levelCheck n = s.cancelPort) := by
  unfold State.levelCheck
  split
  · rename_i h
    split
    · exact .inl rfl
    · rename_i h'; exact .inr (.inl ⟨h.2, h.1, by simpa using h', rfl⟩)
  · split
    · exact .inr (.inr ⟨‹_›, rfl⟩)
    · exact .inl rfl

/-- A re-drive drives the pins in their order, or none where a gated port's outputs are frozen (R191, R230). -/
theorem redriveAll_next {h : Handler} {s t : State} (e : redriveAll h s = .next t) :
    (s.outputsDrive = true ∧ redriveList h pinOrder s = .next t) ∨ (s.outputsDrive = false ∧ t = s) := by
  unfold redriveAll at e
  split at e
  · exact .inl ⟨‹_›, e⟩
  · rename_i hn; injection e with e; exact .inr ⟨by simpa using hn, e.symm⟩

/-- Driving one existing pin after another, each to its driven state as it then is (R191, R194). -/
theorem redriveList_cons_next {h : Handler} {i : PinIx} {l : List PinIx} {s t : State}
    (e : redriveList h (i :: l) s = .next t) :
    ∃ u, ((s.cfg.hasPin i = true ∧ drive h i (s.drivenState i) s = .next u) ∨ (s.cfg.hasPin i = false ∧ u = s)) ∧
      redriveList h l u = .next t := by
  simp only [redriveList, andThen_eq_next] at e
  obtain ⟨u, hu, e⟩ := e
  refine ⟨u, ?_, e⟩
  split at hu
  · exact .inl ⟨‹_›, hu⟩
  · rename_i hn; injection hu with hu; exact .inr ⟨by simpa using hn, hu.symm⟩

/-! ## The comparator -/

/-- The value of a selected channel is handed on, or the evaluation faults (R242). -/
theorem inputValue_next {m : Mux} {s t : State} {k : Volt → Res} (e : inputValue m s k = .next t) :
    ∃ u, s.acInput m = some u ∧ k u = .next t := by
  unfold inputValue at e
  split at e
  · cases e
  · rename_i n h
    split at e
    · cases e
    · rename_i u hu; exact ⟨u, by simp [State.acInput, h, hu], e⟩
  · rename_i h
    split at e
    · cases e
    · rename_i u hu; exact ⟨u, by simp [State.acInput, h, hu], e⟩

theorem inputValue_of_some {m : Mux} {s : State} {u : Volt} (h : s.acInput m = some u) (k : Volt → Res) :
    inputValue m s k = k u := by
  unfold State.acInput at h
  unfold inputValue
  split at h
  · cases h
  · simp_all
  · simp_all

/-- Publishing an output (R255, R256, R258). -/
theorem publishOutput_next {h : Handler} {new : Bool} {s t : State} (e : publishOutput h new s = .next t) :
    (new = s.ac.out ∧ t = s) ∨
    (new ≠ s.ac.out ∧ ∃ u, raiseOutside h .acOut .acOutput (.acBit new) (s.setAcOut new) = .next u ∧
      t = if qualifies u.acIntmode s.ac.out new then (u.setCmp true).updateAcReq else u) := by
  unfold publishOutput at e
  simp only at e
  split at e
  · injection e with e; exact .inl ⟨‹_›, e.symm⟩
  · obtain ⟨u, hu, e⟩ := andThen_eq_next.1 e
    injection e with e
    exact .inr ⟨‹_›, u, hu, e.symm⟩

/-- An evaluation does nothing while the comparator is inactive; else both inputs have values, `ac.raw` takes its next
value and the output is published (R255). -/
theorem acEval_next {h : Handler} {s t : State} (e : acEval h s = .next t) :
    (s.acActive = false ∧ t = s) ∨
    (s.acActive = true ∧ ∃ vp vn, s.acInput .pos = some vp ∧ s.acInput .neg = some vn ∧
      publishOutput h (s.outAfter vp vn) (s.setRaw (s.rawAfter vp vn)) = .next t) := by
  unfold acEval at e
  split at e
  · rename_i ha
    obtain ⟨vp, hp, e⟩ := inputValue_next e
    obtain ⟨vn, hn, e⟩ := inputValue_next e
    exact .inr ⟨ha, vp, vn, hp, hn, e⟩
  · rename_i ha; injection e with e; exact .inl ⟨by simpa using ha, e.symm⟩

theorem acEval_inactive {h : Handler} {s : State} (ha : s.acActive = false) : acEval h s = .next s := by
  simp [acEval, ha]

theorem acEval_active {h : Handler} {s : State} {vp vn : Volt} (ha : s.acActive = true)
    (hp : s.acInput .pos = some vp) (hn : s.acInput .neg = some vn) :
    acEval h s = publishOutput h (s.outAfter vp vn) (s.setRaw (s.rawAfter vp vn)) := by
  simp only [acEval, ha, if_true, inputValue_of_some hp, inputValue_of_some hn]
  rfl

/-- `ac.suspended` becomes what R43 says, and the end of a suspension evaluates (R260). -/
theorem recomputeSuspended_next {h : Handler} {s t : State} (e : recomputeSuspended h s = .next t) :
    (s.ac.suspended = true ∧ s.suspendedNow = false ∧ acEval h (s.setSuspended s.suspendedNow) = .next t) ∨
    ((s.ac.suspended = false ∨ s.suspendedNow = true) ∧ t = s.setSuspended s.suspendedNow) := by
  unfold recomputeSuspended at e
  by_cases hc : (s.ac.suspended && !s.suspendedNow) = true
  · rw [if_pos (by simpa using hc)] at e
    simp only [Bool.and_eq_true, Bool.not_eq_true'] at hc
    exact .inl ⟨hc.1, hc.2, e⟩
  · rw [if_neg (by simpa using hc)] at e
    injection e with e
    refine .inr ⟨?_, e.symm⟩
    revert hc
    cases s.ac.suspended <;> cases s.suspendedNow <;> simp

/-! ## The dispatcher and the lifecycle -/

/-- A bus read gives the masked value of a claimed address and changes nothing else (R152). -/
theorem busRead_next {r : Region} {off : Nat} {s t : State} (e : busRead r off s = .next t) :
    ∃ b, s.peek r off = some b ∧ t = s.emit (.readData b) := by
  unfold busRead at e
  split at e
  · cases e
  · rename_i b hb; injection e with e; exact ⟨b, hb, e.symm⟩

/-- A bus write hands the raw byte to the handler of the claimed address's owner (R153). -/
theorem busWrite_next {h : Handler} {r : Region} {off : Nat} {v : Byte} {s t : State}
    (e : busWrite h r off v s = .next t) :
    ∃ c, claimAt s.claims (s.cfg.base r + off) = some c ∧ writeHandler h c.owner r off v s = .next t := by
  unfold busWrite at e
  split at e
  · cases e
  · rename_i c hc; exact ⟨c, hc, e⟩

/-- A transaction that answers a next state was claimed, admitted and performed (R344). -/
theorem transactWith_next {h : Handler} {q : Request} {s t : State} (e : transactWith h q s = .next t) :
    Request.claimed s.cfg q = true ∧ admission s.init q = none ∧ performAdmitted h q s = .next t := by
  unfold transactWith at e
  split at e
  · split at e
    · cases e
    · exact ⟨‹_›, ‹_›, e⟩
  · cases e

theorem performInputWith_next {h : Handler} {x : Input} {s t : State} (e : performInputWith h x s = .next t) :
    ∃ q, requestOf s.cfg x = .ok q ∧ transactWith h q s = .next t := by
  unfold performInputWith at e
  split at e
  · cases e
  · rename_i q hq; exact ⟨q, hq, e⟩

/-- RESET clears the PORT, re-drives the pins, resets the comparator and leaves the block Ready (R340). -/
theorem resetOp_next {h : Handler} {s t : State} (e : resetOp h s = .next t) :
    ∃ u v, redriveList h pinOrder s.clearPort = .next u ∧ acReset h u = .next v ∧ t = { v with init := .ready } := by
  obtain ⟨u, hu, e⟩ := andThen_eq_next.1 e
  obtain ⟨v, hv, e⟩ := andThen_eq_next.1 e
  injection e with e
  exact ⟨u, v, hu, hv, e.symm⟩

/-- The comparator's reset clears its registers, publishes a 0 output where it was 1, and updates its request (R263). -/
theorem acReset_next {h : Handler} {s t : State} (e : acReset h s = .next t) :
    ∃ u, ((s.ac.out = true ∧ raiseOutside h .acOut .acOutput (.acBit false) (s.clearAc.setAcOut false) = .next u) ∨
        (s.ac.out = false ∧ u = s.clearAc)) ∧ t = u.updateAcReq := by
  obtain ⟨u, hu, e⟩ := andThen_eq_next.1 e
  injection e with e
  refine ⟨u, ?_, e.symm⟩
  split at hu
  · rename_i ho; exact .inl ⟨ho, hu⟩
  · rename_i ho; injection hu with hu; exact .inr ⟨by simpa using ho, hu.symm⟩

/-! ## Nesting -/

/-- What one action of a hook outside the block can do (R80, R128): a list change only on a delivering bus (R35, R132). -/
theorem act_next {h : Handler} {a : Action} {s t : State} (e : act h a s = .next t) :
    (∃ x, a = .input x ∧ performInputWith h x s = .next t) ∨
    (∃ bus entry, a = .subscribe bus entry ∧ bus ∈ s.delivering ∧
      entry.hookId ∉ (s.subscribers bus).map Subscriber.hookId ∧
      t = s.setSubscribers bus (s.subscribers bus ++ [entry])) ∨
    (∃ bus hook, a = .unsubscribe bus hook ∧ bus ∈ s.delivering ∧ hook ∈ (s.subscribers bus).map Subscriber.hookId ∧
      t = s.setSubscribers bus ((s.subscribers bus).filter fun x => x.hookId != hook)) := by
  cases a with
  | input x => exact .inl ⟨x, rfl, e⟩
  | subscribe bus entry =>
    simp only [act, subscribeOp] at e
    split at e
    · cases e
    · rename_i hd
      split at e
      · cases e
      · injection e with e; exact .inr (.inl ⟨bus, entry, rfl, not_not.1 hd, ‹_›, e.symm⟩)
  | unsubscribe bus hook =>
    simp only [act, unsubscribeOp] at e
    split at e
    · cases e
    · rename_i hd
      split at e
      · injection e with e; exact .inr (.inr ⟨bus, hook, rfl, not_not.1 hd, ‹_›, e.symm⟩)
      · cases e
  | spin => cases e

end Sys2Proof.Machine
end

