-- ==== Sys2Proof/Laws/Closed.lean ====
section
/-! SUPPORT. One induction for every property that the block's elementary updates keep: if a property of states (with the
list of delivering buses) is closed under them, every transaction keeps it, whatever hooks outside the block do. RESET
passes through states that many properties do not hold in, so what it does to a property is a hypothesis. -/

namespace Sys2Proof.Machine

open Sys2Proof

/-- INIT has succeeded (R45). In such a state INIT is refused, and it stays such a state. -/
def State.Live (s : State) : Prop := s.init = .initialized ∨ s.init = .ready

/-- What a handler must do for a property to be kept by the operation that calls it. -/
def Handler.Keeps (P : List BusId → State → Prop) (h : Handler) : Prop :=
  ∀ a d s t, s.Live → P d s → h a s = .next t → t.Live ∧ P d t

/-- `P` is closed under the elementary updates; `Tag i` says that the port's hook can be called for pin `i`. A raise ends
with the subscriber list it began with in the state `s0` (R132). -/
structure Closed (P : List BusId → State → Prop) (Tag : PinIx → Prop) : Prop where
  emit : ∀ d s e, P d s → P d (s.emit e)
  popEnv : ∀ d s r rest, P d s → s.env = r :: rest → P d { s with env := rest }
  push : ∀ d s b, P d s → b ∉ s.delivering → P (b :: d) { s with delivering := b :: s.delivering }
  pop : ∀ d s0 s b, P d s0 → P (b :: d) s → s.subscribers b = s0.subscribers b →
    P d { s with delivering := s.delivering.erase b }
  tag : ∀ d s i k, P d s → s.Live → Subscriber.port k ∈ s.subscribers (.pin i) → Tag k
  setPin : ∀ d s i st, P d s → s.cfg.hasPin i = true → P d (s.setPin i st)
  setIn : ∀ d s i b, P d s → Tag i → P d (s.setIn (withBit s.port.inp i b))
  flagPin : ∀ d s i c, P d s → Tag i → P d (s.flagPin i c)
  dir : ∀ d s v, P d s → (s.port.dir &&& ~~~s.cfg.pinMask = 0 → v &&& ~~~s.cfg.pinMask = 0) → P d (s.setDir v)
  out : ∀ d s v, P d s → (s.port.out &&& ~~~s.cfg.pinMask = 0 → v &&& ~~~s.cfg.pinMask = 0) → P d (s.setOut v)
  intflags : ∀ d s v t, P d s → writeIntflags v s = .next t → P d t
  pinctrl : ∀ d s n v, P d s → s.cfg.hasPin n = true → P d ((s.setPinctrl n v).levelCheck n)
  ctrla : ∀ d s v, P d s →
    P d ((s.setCtrla (v &&& ctrlaMask)).setSuspended (s.setCtrla (v &&& ctrlaMask)).suspendedNow)
  muxctrla : ∀ d s v, P d s → P d (s.setMuxctrla (v &&& muxctrlaMask))
  intctrl : ∀ d s v, P d s → P d (s.setIntctrl (v &&& intctrlMask)).updateAcReq
  status : ∀ d s (v : Byte), P d s → P d (if v.getLsbD 0 then s.setCmp false else s).updateAcReq
  raw : ∀ d s b, P d s → s.acActive = true → P d (s.setRaw b)
  acOut : ∀ d s b, P d s → b ≠ s.ac.out → P d (s.setAcOut b)
  flagAc : ∀ d s, P d s → P d (s.setCmp true).updateAcReq
  sleep : ∀ d s m, P d s → m ∈ s.cfg.sleepModes →
    P d (State.setSuspended { s with sleep := some m } (State.suspendedNow { s with sleep := some m }))
  wake : ∀ d s, P d s → P d (State.setSuspended { s with sleep := none } false)
  chan : ∀ d s k u, P d s → P d (s.setChan k u)
  ref : ∀ d s u, P d s → P d (s.setRef u)
  subscribe : ∀ d s b (x : Subscriber), P d s → b ∈ s.delivering → x.hookId ∉ (s.subscribers b).map Subscriber.hookId →
    P d (s.setSubscribers b (s.subscribers b ++ [x]))
  unsubscribe : ∀ d s b (hook : HookId), P d s → b ∈ s.delivering →
    P d (s.setSubscribers b ((s.subscribers b).filter fun x => x.hookId != hook))

/-- A result of an operation that keeps `P`. -/
def Kept (P : List BusId → State → Prop) (d : List BusId) (s : State) (r : Res) : Prop :=
  s.Live → P d s → ∀ t, r = .next t → t.Live ∧ P d t

section

variable {P : List BusId → State → Prop} {Tag : PinIx → Prop} {h : Handler}

theorem kept_next {d : List BusId} {s t : State} (hl : s.Live → t.Live) (hp : P d s → P d t) :
    Kept P d s (.next t) := by
  intro l p u e; injection e with e; subst e; exact ⟨hl l, hp p⟩

theorem kept_andThen {d : List BusId} {s : State} {r : Res} {k : State → Res} (h1 : Kept P d s r)
    (h2 : ∀ u, Kept P d u (k u)) : Kept P d s (andThen r k) := by
  intro l p t e
  obtain ⟨u, hu, e⟩ := andThen_eq_next.1 e
  obtain ⟨l', p'⟩ := h1 l p u hu
  exact h2 u l' p' t e

theorem runActions_keeps (hh : Handler.Keeps P h) (l : List Action) (d : List BusId) (s : State) :
    Kept P d s (runActions h l s) := by
  induction l generalizing s with
  | nil => exact kept_next id id
  | cons a l ih => exact kept_andThen (fun lv p t e => hh a d s t lv p e) ih

theorem Closed.callOutside (hc : Closed P Tag) (hh : Handler.Keeps P h) (bus : BusId) (id : SignalId) (p : Payload)
    (tag : Int) (d : List BusId) (s : State) : Kept P d s (callOutside h bus id p tag s) := by
  intro l q t e
  have q' := hc.emit d s (.signal bus id p tag) q
  rcases callOutside_next e with ⟨-, rfl⟩ | ⟨r, rest, he, e⟩
  · exact ⟨l, q'⟩
  · exact runActions_keeps hh r d _ (by exact l) (hc.popEnv d _ r rest q' he) t e

theorem deliver_keeps {call : Subscriber → State → Res} {bus : BusId} {snap l : List Subscriber} {d : List BusId}
    (hc : ∀ x ∈ l, ∀ u, Kept P d u (call x u)) (s : State) : Kept P d s (deliver call bus snap l s) := by
  induction l generalizing s with
  | nil => exact kept_next id id
  | cons x l ih =>
    intro lv p t e
    obtain ⟨u, hu, -, e⟩ := deliver_cons_next e
    obtain ⟨lu, pu⟩ := hc x (List.mem_cons_self ..) s lv p u hu
    exact ih (fun y hy => hc y (List.mem_cons_of_mem _ hy)) u lu pu t e

theorem Closed.signalRaise (hc : Closed P Tag) {call : Subscriber → State → Res} {bus : BusId} {d : List BusId}
    {s : State} (hk : ∀ x ∈ s.subscribers bus, ∀ u, Kept P (bus :: d) u (call x u)) :
    Kept P d s (signalRaise call bus s) := by
  intro l p t e
  obtain ⟨hb, u, hu, rfl⟩ := signalRaise_next e
  obtain ⟨lu, pu⟩ := deliver_keeps hk _ (by exact l) (hc.push d s bus p hb) u hu
  exact ⟨lu, hc.pop d s u bus p pu (deliver_list hu rfl)⟩

theorem Closed.raiseOutside (hc : Closed P Tag) (hh : Handler.Keeps P h) (bus : BusId) (id : SignalId) (p : Payload)
    (d : List BusId) (s : State) : Kept P d s (raiseOutside h bus id p s) :=
  hc.signalRaise fun x _ u => by
    cases x with
    | port k => exact kept_next (fun l => l) (fun q => q)
    | ext k tag => exact hc.callOutside hh bus id p tag _ u

theorem live_flagPin (s : State) (i : PinIx) (c : Bool) (l : s.Live) : (s.flagPin i c).Live := by
  rcases s.flagPin_eq i c with e | ⟨-, -, e⟩ <;> rw [e] <;> exact l

theorem Closed.portHook (hc : Closed P Tag) (hh : Handler.Keeps P h) (st : PinState) (i : PinIx) (ht : Tag i)
    (d : List BusId) (s : State) : Kept P d s (portHook h st i s) := by
  intro l p t e
  rcases portHook_next e with ⟨-, rfl⟩ | ⟨-, -, rfl⟩ | ⟨-, -, u, hu, rfl⟩
  · exact ⟨l, hc.emit d s _ p⟩
  · exact ⟨l, p⟩
  · have key : u.Live ∧ P d u := by
      rcases hu with ⟨-, rfl⟩ | ⟨-, hu⟩
      · exact ⟨l, p⟩
      · exact hc.raiseOutside hh _ _ _ d _ (by exact l) (hc.setIn d s i _ p ht) u hu
    exact ⟨live_flagPin u i _ key.1, hc.flagPin d u i _ key.2 ht⟩

theorem Closed.drive (hc : Closed P Tag) (hh : Handler.Keeps P h) (i : PinIx) (st : PinState) (d : List BusId)
    (s : State) (hp : s.cfg.hasPin i = true) : Kept P d s (drive h i st s) := by
  intro l p t e
  rcases drive_next e with ⟨-, rfl⟩ | ⟨-, e⟩
  · exact ⟨l, p⟩
  · have p' := hc.setPin d s i st p hp
    have hk : ∀ x ∈ (s.setPin i st).subscribers (.pin i), ∀ u, Kept P (.pin i :: d) u (callPinHook h i st x u) := by
      intro x hx u
      cases x with
      | port k => exact hc.portHook hh st k (hc.tag d _ i k p' (by exact l) hx) _ u
      | ext k tag => exact hc.callOutside hh _ _ _ tag _ u
    exact hc.signalRaise hk (by exact l) p' t e

theorem Closed.redriveList (hc : Closed P Tag) (hh : Handler.Keeps P h) (l : List PinIx) (d : List BusId) (s : State) :
    Kept P d s (redriveList h l s) := by
  induction l generalizing s with
  | nil => exact kept_next (fun l => l) (fun q => q)
  | cons i l ih =>
    intro lv p t e0
    obtain ⟨u, hu, e⟩ := redriveList_cons_next e0
    clear e0
    rcases hu with ⟨hp, hu⟩ | ⟨-, rfl⟩
    · obtain ⟨lu, pu⟩ := hc.drive hh i _ d s hp lv p u hu
      exact ih u lu pu t e
    · exact ih u lv p t e

theorem Closed.redriveAll (hc : Closed P Tag) (hh : Handler.Keeps P h) (d : List BusId) (s : State) :
    Kept P d s (redriveAll h s) := by
  intro l p t e
  rcases redriveAll_next e with ⟨-, e⟩ | ⟨-, rfl⟩
  · exact hc.redriveList hh pinOrder d s l p t e
  · exact ⟨l, p⟩

theorem live_levelCheck (s : State) (n : PinIx) (l : s.Live) : (s.levelCheck n).Live := by
  rcases s.levelCheck_eq n with e | ⟨-, -, -, e⟩ | ⟨-, e⟩ <;> rw [e] <;> exact l

theorem live_levelCheckList (m : Byte) (ps : List PinIx) (s : State) (l : s.Live) : (levelCheckList m ps s).Live := by
  induction ps generalizing s with
  | nil => exact l
  | cons i ps ih =>
    unfold levelCheckList
    apply ih
    split
    · exact live_levelCheck s i l
    · exact l

theorem live_writeIntflags {v : Byte} {s t : State} (l : s.Live) (e : writeIntflags v s = .next t) : t.Live := by
  unfold writeIntflags at e
  injection e with e
  subst e
  have hx : State.Live (if (s.setIntflags (clearOnes s.port.intflags (s.maskPins v))).port.intflags = 0
      then (s.setIntflags (clearOnes s.port.intflags (s.maskPins v))).cancelPort
      else s.setIntflags (clearOnes s.port.intflags (s.maskPins v))) := by
    split <;> exact l
  split
  · exact live_levelCheckList _ _ _ hx
  · exact hx

theorem cfg_levelCheck (s : State) (n : PinIx) : (s.levelCheck n).cfg = s.cfg := by
  rcases s.levelCheck_eq n with e | ⟨-, -, -, e⟩ | ⟨-, e⟩ <;> rw [e] <;> rfl

theorem Closed.writeIntflags (hc : Closed P Tag) (v : Byte) (d : List BusId) (s : State) :
    Kept P d s (writeIntflags v s) := fun l p t e => ⟨live_writeIntflags l e, hc.intflags d s v t p e⟩

theorem Closed.writePinctrl (hc : Closed P Tag) (hh : Handler.Keeps P h) (n : PinIx) (v : Byte) (d : List BusId)
    (s : State) : Kept P d s (writePinctrl h n v s) := by
  unfold Machine.writePinctrl
  split
  · rename_i hp
    intro l p t e
    have l' := live_levelCheck (s.setPinctrl n v) n l
    have p' := hc.pinctrl d s n v p hp
    dsimp only at e
    split at e
    · exact hc.drive hh n _ d ((s.setPinctrl n v).levelCheck n) (by rw [cfg_levelCheck]; exact hp) l' p' t e
    · injection e with e; subst e; exact ⟨l', p'⟩
  · exact kept_next (fun l => l) (fun q => q)

/-- A masked byte is within its mask. -/
theorem maskPins_within (s : State) (v : Byte) : s.maskPins v &&& ~~~s.cfg.pinMask = 0 := masked_and_right v _

theorem Closed.dirWrite (hc : Closed P Tag) (hh : Handler.Keeps P h) {v : Byte} {d : List BusId} {s : State}
    (hv : s.port.dir &&& ~~~s.cfg.pinMask = 0 → v &&& ~~~s.cfg.pinMask = 0) :
    Kept P d s (Machine.redriveAll h (s.setDir v)) := fun l p t e =>
  hc.redriveAll hh d _ (by exact l) (hc.dir d s v p hv) t e

theorem Closed.outWrite (hc : Closed P Tag) (hh : Handler.Keeps P h) {v : Byte} {d : List BusId} {s : State}
    (hv : s.port.out &&& ~~~s.cfg.pinMask = 0 → v &&& ~~~s.cfg.pinMask = 0) :
    Kept P d s (Machine.redriveAll h (s.setOut v)) := fun l p t e =>
  hc.redriveAll hh d _ (by exact l) (hc.out d s v p hv) t e

theorem within_or {a b m : Byte} (ha : a &&& ~~~m = 0) (hb : b &&& ~~~m = 0) : (a ||| b) &&& ~~~m = 0 := by
  rw [masked_iff] at *
  intro i hi
  simp only [bitAt_or, Bool.or_eq_true] at hi
  exact hi.elim (ha i) (hb i)

theorem within_xor {a b m : Byte} (ha : a &&& ~~~m = 0) (hb : b &&& ~~~m = 0) : (a ^^^ b) &&& ~~~m = 0 := by
  rw [masked_iff] at *
  intro i hi
  rw [bitAt_xor] at hi
  cases h1 : bitAt a i
  · rw [h1, Bool.false_xor] at hi; exact hb i hi
  · exact ha i h1

theorem Closed.portWrite (hc : Closed P Tag) (hh : Handler.Keeps P h) (reg : PortReg) (v : Byte) (d : List BusId)
    (s : State) : Kept P d s (portWrite h reg v s) := by
  have hm := maskPins_within s v
  cases reg with
  | dir => exact hc.dirWrite hh fun _ => hm
  | dirset => exact hc.dirWrite hh fun h0 => within_or h0 hm
  | dirclr => exact hc.dirWrite hh fun h0 => masked_clearOnes (w := s.maskPins v) h0
  | dirtgl => exact hc.dirWrite hh fun h0 => within_xor h0 hm
  | out => exact hc.outWrite hh fun _ => hm
  | outset => exact hc.outWrite hh fun h0 => within_or h0 hm
  | outclr => exact hc.outWrite hh fun h0 => masked_clearOnes (w := s.maskPins v) h0
  | outtgl => exact hc.outWrite hh fun h0 => within_xor h0 hm
  | inp => exact kept_next (fun l => l) (fun q => q)
  | intflags => exact hc.writeIntflags v d s
  | pinctrl n => exact hc.writePinctrl hh n v d s
  | reserved => exact kept_next (fun l => l) (fun q => q)

theorem Closed.vportWrite (hc : Closed P Tag) (hh : Handler.Keeps P h) (reg : VportReg) (v : Byte) (d : List BusId)
    (s : State) : Kept P d s (vportWrite h reg v s) := by
  cases reg with
  | dir => exact hc.portWrite hh .dir v d s
  | out => exact hc.portWrite hh .out v d s
  | inp => exact kept_next (fun l => l) (fun q => q)
  | intflags => exact hc.writeIntflags v d s
  | reserved => exact kept_next (fun l => l) (fun q => q)

theorem live_updateAcReq (s : State) (l : s.Live) : s.updateAcReq.Live := by
  rw [State.updateAcReq_eq]; exact l

theorem Closed.publishOutput (hc : Closed P Tag) (hh : Handler.Keeps P h) (new : Bool) (d : List BusId) (s : State) :
    Kept P d s (publishOutput h new s) := by
  intro l p t e
  rcases publishOutput_next e with ⟨-, rfl⟩ | ⟨hne, u, hu, rfl⟩
  · exact ⟨l, p⟩
  · obtain ⟨lu, pu⟩ := hc.raiseOutside hh _ _ _ d _ (by exact l) (hc.acOut d s new p hne) u hu
    split
    · exact ⟨live_updateAcReq _ lu, hc.flagAc d u pu⟩
    · exact ⟨lu, pu⟩

theorem Closed.acEval (hc : Closed P Tag) (hh : Handler.Keeps P h) (d : List BusId) (s : State) :
    Kept P d s (acEval h s) := by
  intro l p t e
  rcases acEval_next e with ⟨-, rfl⟩ | ⟨ha, vp, vn, -, -, e⟩
  · exact ⟨l, p⟩
  · exact hc.publishOutput hh _ d _ (by exact l) (hc.raw d s _ p ha) t e

theorem Closed.recompute (hc : Closed P Tag) (hh : Handler.Keeps P h) {d : List BusId} {s t : State} (l : s.Live)
    (p : P d (s.setSuspended s.suspendedNow)) (e : recomputeSuspended h s = .next t) : t.Live ∧ P d t := by
  rcases recomputeSuspended_next e with ⟨-, -, e⟩ | ⟨-, rfl⟩
  · exact hc.acEval hh d _ (by exact l) p t e
  · exact ⟨l, p⟩

theorem Closed.acWrite (hc : Closed P Tag) (hh : Handler.Keeps P h) (reg : AcReg) (v : Byte) (d : List BusId)
    (s : State) : Kept P d s (acWrite h reg v s) := by
  cases reg with
  | ctrla =>
    exact kept_andThen (fun l p t e => hc.recompute hh (by exact l) (hc.ctrla d s v p) e) fun u => hc.acEval hh d u
  | muxctrla => exact fun l p t e => hc.acEval hh d _ (by exact l) (hc.muxctrla d s v p) t e
  | intctrl => exact kept_next (fun l => live_updateAcReq _ l) (hc.intctrl d s v)
  | status =>
    refine kept_next (fun l => live_updateAcReq _ ?_) (hc.status d s v)
    split <;> exact l
  | reserved => exact kept_next (fun l => l) (fun q => q)

theorem Closed.writeHandler (hc : Closed P Tag) (hh : Handler.Keeps P h) (o : Peripheral) (r : Region) (off : Nat)
    (v : Byte) (d : List BusId) (s : State) : Kept P d s (writeHandler h o r off v s) := by
  cases o <;> cases r
  · exact hc.portWrite hh _ v d s
  · exact hc.vportWrite hh _ v d s
  · exact kept_next (fun l => l) (fun q => q)
  · exact kept_next (fun l => l) (fun q => q)
  · exact kept_next (fun l => l) (fun q => q)
  · exact hc.acWrite hh _ v d s

theorem setSuspended_same {s : State} {b : Bool} (hb : s.ac.suspended = b) : s.setSuspended b = s := by
  subst hb; rfl

/-- Every transaction of a live block keeps a closed property. -/
theorem Closed.transactWith (hc : Closed P Tag) {n : Nat} (hh : Handler.Keeps P (Machine.handlerAt n))
    (hr : ∀ d s, Kept P d s (resetOp (Machine.handlerAt n) s)) (q : Request) (d : List BusId) (s : State) : Kept P d s (transactWith (Machine.handlerAt n) q s) := by
  intro l p t e
  obtain ⟨-, ha, e⟩ := transactWith_next e
  cases q with
  | read r off =>
    obtain ⟨b, -, rfl⟩ := busRead_next e
    exact ⟨l, hc.emit d s _ p⟩
  | write r off v =>
    obtain ⟨c, -, e⟩ := busWrite_next e
    exact hc.writeHandler hh _ r off v d s l p t e
  | pinset k st =>
    change pinsetOp _ k st s = .next t at e
    unfold pinsetOp at e
    split at e
    · exact hc.drive hh k st d s ‹_› l p t e
    · cases e
  | reset =>
    exact hr d s l p t e
  | init => rcases l with l | l <;> simp [admission, l] at ha
  | sleep m =>
    change sleepOp _ m s = .next t at e
    unfold sleepOp at e
    split at e
    · rename_i hm; exact hc.recompute (s := { s with sleep := some m }) hh (by exact l) (hc.sleep d s m p hm) e
    · cases e
  | wake =>
    change wakeOp _ s = .next t at e
    unfold wakeOp at e
    dsimp only at e
    split at e
    · exact hc.acEval hh d _ (by exact l) (hc.wake d s p) t e
    · rename_i hn
      injection e with e
      subst e
      refine ⟨l, ?_⟩
      have := hc.wake d s p
      rwa [setSuspended_same (by simpa using hn)] at this
  | achan k u =>
    change achanOp _ k u s = .next t at e
    unfold achanOp at e
    dsimp only at e
    split at e
    · exact hc.acEval hh d _ (by exact l) (hc.chan d s k u p) t e
    · injection e with e; subst e; exact ⟨l, hc.chan d s k u p⟩
  | aref u =>
    change arefOp _ u s = .next t at e
    unfold arefOp at e
    dsimp only at e
    split at e
    · exact hc.acEval hh d _ (by exact l) (hc.ref d s u p) t e
    · injection e with e; subst e; exact ⟨l, hc.ref d s u p⟩
  | getAcOut => injection e with e; subst e; exact ⟨l, hc.emit d s _ p⟩
  | getAcRef =>
    change getAcRefOp s = .next t at e
    unfold getAcRefOp at e
    split at e
    · cases e
    · injection e with e; subst e; exact ⟨l, hc.emit d s _ p⟩
  | getPortSignal => injection e with e; subst e; exact ⟨l, hc.emit d s _ p⟩

/-- Every hook outside the block keeps a closed property that RESET keeps, at every level of nesting. -/
theorem Closed.handlerAt (hc : Closed P Tag)
    (hr : ∀ n, Handler.Keeps P (Machine.handlerAt n) → ∀ d s, Kept P d s (resetOp (Machine.handlerAt n) s)) (n : Nat) :
    Handler.Keeps P (Machine.handlerAt n) := by
  induction n with
  | zero => intro a d s t _ _ e; cases e
  | succ n ih =>
    intro a d s t l p e
    rcases act_next (h := Machine.handlerAt n) e with ⟨x, -, e⟩ | ⟨b, x, -, hd, hn, rfl⟩ |
      ⟨b, hook, -, hd, -, rfl⟩
    · obtain ⟨q, -, e⟩ := performInputWith_next e
      exact hc.transactWith ih (hr n ih) q d s l p t e
    · exact ⟨by unfold State.Live at *; simpa using l, hc.subscribe d s b x p hd hn⟩
    · exact ⟨by unfold State.Live at *; simpa using l, hc.unsubscribe d s b hook p hd⟩

/-- Every transaction of a live block keeps a closed property that RESET keeps. -/
theorem Closed.transact (hc : Closed P Tag)
    (hr : ∀ n, Handler.Keeps P (Machine.handlerAt n) → ∀ d s, Kept P d s (resetOp (Machine.handlerAt n) s))
    (q : Request) (d : List BusId) (s : State) : Kept P d s (transact q s) :=
  hc.transactWith (hc.handlerAt hr nestDepth) (hr nestDepth (hc.handlerAt hr nestDepth)) q d s

/-- RESET keeps a closed property that survives its four direct updates. -/
theorem Closed.reset (hc : Closed P Tag) (hh : Handler.Keeps P h) (h1 : ∀ d s, P d s → P d s.clearPort)
    (h2 : ∀ d s, P d s → P d s.clearAc) (h3 : ∀ d s, P d s → P d s.updateAcReq)
    (h4 : ∀ d s, P d s → P d { s with init := .ready }) (d : List BusId) (s : State) :
    Kept P d s (resetOp h s) := by
  intro l p t e
  obtain ⟨u, v, hu, hv, rfl⟩ := resetOp_next e
  obtain ⟨lu, pu⟩ := hc.redriveList hh pinOrder d _ (by exact l) (h1 d s p) u hu
  obtain ⟨w, hw, rfl⟩ := acReset_next hv
  refine ⟨.inr rfl, h4 d _ (h3 d w ?_)⟩
  rcases hw with ⟨ho, hw⟩ | ⟨-, rfl⟩
  · exact (hc.raiseOutside hh _ _ _ d _ (by exact lu)
      (hc.acOut d u.clearAc false (h2 d u pu) (by simp [ho])) w hw).2
  · exact h2 d u pu

end

end Sys2Proof.Machine
end

