-- ==== Sys2Proof/Laws/Encoding.lean ====
section
/-! SUPPORT. The fields of a word put together from field values (R90), and what each row decoder answers. -/

namespace Sys2Proof

theorem fieldR_twWord (r : BitVec 2) (w z : Bool) (o d : Byte) : fieldR (twWord r w z o d) = r := by
  apply BitVec.eq_of_getLsbD_eq
  intro i hi
  simp only [fieldR, twWord, BitVec.getLsbD_extractLsb', BitVec.getLsbD_append]
  have h1 : ¬ 18 + i < 8 := by omega
  have h2 : ¬ 18 + i - 8 < 8 := by omega
  have h3 : ¬ 18 + i - 8 - 8 < 1 := by omega
  have h4 : ¬ 18 + i - 8 - 8 - 1 < 1 := by omega
  have h5 : 18 + i - 8 - 8 - 1 - 1 = i := by omega
  simp [h1, h2, h3, h4, h5, hi]

theorem fieldW_twWord (r : BitVec 2) (w z : Bool) (o d : Byte) : fieldW (twWord r w z o d) = w := by
  simp only [fieldW, twWord, BitVec.getLsbD_append]
  simp

theorem fieldZ_twWord (r : BitVec 2) (w z : Bool) (o d : Byte) : fieldZ (twWord r w z o d) = z := by
  simp only [fieldZ, twWord, BitVec.getLsbD_append]
  simp

theorem fieldO_twWord (r : BitVec 2) (w z : Bool) (o d : Byte) : fieldO (twWord r w z o d) = o := by
  apply BitVec.eq_of_getLsbD_eq
  intro i hi
  simp only [fieldO, twWord, BitVec.getLsbD_extractLsb', BitVec.getLsbD_append]
  have h1 : ¬ 8 + i < 8 := by omega
  have h2 : 8 + i - 8 = i := by omega
  simp [h2, hi]

theorem fieldD_twWord (r : BitVec 2) (w z : Bool) (o d : Byte) : fieldD (twWord r w z o d) = d := by
  apply BitVec.eq_of_getLsbD_eq
  intro i hi
  simp only [fieldD, twWord, BitVec.getLsbD_extractLsb', BitVec.getLsbD_append, Nat.zero_add]
  simp [hi]

/-- A word with `Z = 1` is of the one row for such words. -/
theorem decode_z (r : BitVec 2) (w : Bool) (o d : Byte) (u : Volt) :
    decode (twWord r w true o d) u = .zReserved r w o d := by
  simp only [decode, fieldZ_twWord, fieldR_twWord, fieldW_twWord, fieldO_twWord, fieldD_twWord, if_true]

theorem decode_encodeRead (r : BitVec 2) (o : Byte) (u : Volt) :
    decode (encodeRead r o) u = match r.toNat with
      | 0 => decodeRdPort o
      | 1 => decodeRdVport o
      | 2 => decodeRdAc o
      | _ => decodeEvent o 0 u := by
  unfold decode encodeRead
  simp only [fieldZ_twWord, fieldR_twWord, fieldW_twWord, fieldO_twWord, fieldD_twWord, Bool.false_eq_true, if_false]
  generalize r.toNat = n
  split <;> simp_all

theorem decode_encodeWrite (r : BitVec 2) (o d : Byte) (u : Volt) :
    decode (encodeWrite r o d) u = match r.toNat with
      | 0 => decodeWrPort o d
      | 1 => decodeWrVport o d
      | 2 => decodeWrAc o d
      | _ => .eventWrite o d := by
  unfold decode encodeWrite
  simp only [fieldZ_twWord, fieldR_twWord, fieldW_twWord, fieldO_twWord, fieldD_twWord, Bool.false_eq_true, if_false]
  generalize r.toNat = n
  split <;> simp_all

theorem decode_encodeEvent (o d : Byte) (u : Volt) : decode (encodeEvent o d) u = decodeEvent o d u := by
  unfold decode encodeEvent
  simp only [fieldZ_twWord, fieldR_twWord, fieldW_twWord, fieldO_twWord, fieldD_twWord, Bool.false_eq_true, if_false]
  rfl

/-- The argument of PINSET is read back. -/
theorem pinset_arg (n : PinIx) (st : PinState) :
    pinsetPin (pinsetArg n st) = n ∧ PinState.ofCode (pinsetCode (pinsetArg n st)) = some st := by
  revert n st
  have h : ∀ n : PinIx, ∀ st ∈ [PinState.low, .high, .floating, .pullUp, .pullDown, .analog, .shorted],
      pinsetPin (pinsetArg n st) = n ∧ PinState.ofCode (pinsetCode (pinsetArg n st)) = some st := by decide
  intro n st
  exact h n st (by cases st <;> decide)

theorem pinState_ofCode_none (c : BitVec 3) : PinState.ofCode c = none ↔ c = 7#3 := by revert c; decide

theorem inRange_iff (lo hi : Nat) (off : Byte) : inRange lo hi off = true ↔ lo ≤ off.toNat ∧ off.toNat ≤ hi := by
  simp [inRange]

end Sys2Proof
end

