-- ==== Sys2Proof/Laws/Exec.lean ====
section
/-! SUPPORT. From an instruction to the operation it performs: every meaning is one transaction or a reserved encoding, and
in an operating block a claimed bus word is its region's read or write. -/

namespace Sys2Proof.Machine

open Sys2Proof

/-- The transaction an instruction performs; a reserved encoding performs none. -/
def requestOfInstr : Instr → Option Request
  | .rdPortDir => some (.read .port 0x00)
  | .rdPortDirset => some (.read .port 0x01)
  | .rdPortDirclr => some (.read .port 0x02)
  | .rdPortDirtgl => some (.read .port 0x03)
  | .rdPortOut => some (.read .port 0x04)
  | .rdPortOutset => some (.read .port 0x05)
  | .rdPortOutclr => some (.read .port 0x06)
  | .rdPortOuttgl => some (.read .port 0x07)
  | .rdPortIn => some (.read .port 0x08)
  | .rdPortIntflags => some (.read .port 0x09)
  | .rdPortPin0ctrl => some (.read .port 0x10)
  | .rdPortPin1ctrl => some (.read .port 0x11)
  | .rdPortPin2ctrl => some (.read .port 0x12)
  | .rdPortPin3ctrl => some (.read .port 0x13)
  | .rdPortPin4ctrl => some (.read .port 0x14)
  | .rdPortPin5ctrl => some (.read .port 0x15)
  | .rdPortPin6ctrl => some (.read .port 0x16)
  | .rdPortPin7ctrl => some (.read .port 0x17)
  | .rdPortReserved0A off => some (.read .port off.toNat)
  | .rdPortReserved0C off => some (.read .port off.toNat)
  | .rdPortReserved18 off => some (.read .port off.toNat)
  | .rdPortUnclaimed20 off => some (.read .port off.toNat)
  | .rdPortUnclaimed40 off => some (.read .port off.toNat)
  | .rdPortUnclaimed80 off => some (.read .port off.toNat)
  | .wrPortDir v => some (.write .port 0x00 v)
  | .wrPortDirset v => some (.write .port 0x01 v)
  | .wrPortDirclr v => some (.write .port 0x02 v)
  | .wrPortDirtgl v => some (.write .port 0x03 v)
  | .wrPortOut v => some (.write .port 0x04 v)
  | .wrPortOutset v => some (.write .port 0x05 v)
  | .wrPortOutclr v => some (.write .port 0x06 v)
  | .wrPortOuttgl v => some (.write .port 0x07 v)
  | .wrPortIn v => some (.write .port 0x08 v)
  | .wrPortIntflags v => some (.write .port 0x09 v)
  | .wrPortPin0ctrl v => some (.write .port 0x10 v)
  | .wrPortPin1ctrl v => some (.write .port 0x11 v)
  | .wrPortPin2ctrl v => some (.write .port 0x12 v)
  | .wrPortPin3ctrl v => some (.write .port 0x13 v)
  | .wrPortPin4ctrl v => some (.write .port 0x14 v)
  | .wrPortPin5ctrl v => some (.write .port 0x15 v)
  | .wrPortPin6ctrl v => some (.write .port 0x16 v)
  | .wrPortPin7ctrl v => some (.write .port 0x17 v)
  | .wrPortReserved0A off v => some (.write .port off.toNat v)
  | .wrPortReserved0C off v => some (.write .port off.toNat v)
  | .wrPortReserved18 off v => some (.write .port off.toNat v)
  | .wrPortUnclaimed20 off v => some (.write .port off.toNat v)
  | .wrPortUnclaimed40 off v => some (.write .port off.toNat v)
  | .wrPortUnclaimed80 off v => some (.write .port off.toNat v)
  | .rdVportDir => some (.read .vport 0x00)
  | .rdVportOut => some (.read .vport 0x01)
  | .rdVportIn => some (.read .vport 0x02)
  | .rdVportIntflags => some (.read .vport 0x03)
  | .rdVportUnclaimed04 off => some (.read .vport off.toNat)
  | .rdVportUnclaimed08 off => some (.read .vport off.toNat)
  | .rdVportUnclaimed10 off => some (.read .vport off.toNat)
  | .rdVportUnclaimed20 off => some (.read .vport off.toNat)
  | .rdVportUnclaimed40 off => some (.read .vport off.toNat)
  | .rdVportUnclaimed80 off => some (.read .vport off.toNat)
  | .wrVportDir v => some (.write .vport 0x00 v)
  | .wrVportOut v => some (.write .vport 0x01 v)
  | .wrVportIn v => some (.write .vport 0x02 v)
  | .wrVportIntflags v => some (.write .vport 0x03 v)
  | .wrVportUnclaimed04 off v => some (.write .vport off.toNat v)
  | .wrVportUnclaimed08 off v => some (.write .vport off.toNat v)
  | .wrVportUnclaimed10 off v => some (.write .vport off.toNat v)
  | .wrVportUnclaimed20 off v => some (.write .vport off.toNat v)
  | .wrVportUnclaimed40 off v => some (.write .vport off.toNat v)
  | .wrVportUnclaimed80 off v => some (.write .vport off.toNat v)
  | .rdAcCtrla => some (.read .ac 0x00)
  | .rdAcMuxctrla => some (.read .ac 0x02)
  | .rdAcIntctrl => some (.read .ac 0x06)
  | .rdAcStatus => some (.read .ac 0x07)
  | .rdAcReserved01 => some (.read .ac 0x01)
  | .rdAcReserved03 => some (.read .ac 0x03)
  | .rdAcReserved04 off => some (.read .ac off.toNat)
  | .rdAcUnclaimed08 off => some (.read .ac off.toNat)
  | .rdAcUnclaimed10 off => some (.read .ac off.toNat)
  | .rdAcUnclaimed20 off => some (.read .ac off.toNat)
  | .rdAcUnclaimed40 off => some (.read .ac off.toNat)
  | .rdAcUnclaimed80 off => some (.read .ac off.toNat)
  | .wrAcCtrla v => some (.write .ac 0x00 v)
  | .wrAcMuxctrla v => some (.write .ac 0x02 v)
  | .wrAcIntctrl v => some (.write .ac 0x06 v)
  | .wrAcStatus v => some (.write .ac 0x07 v)
  | .wrAcReserved01 v => some (.write .ac 0x01 v)
  | .wrAcReserved03 v => some (.write .ac 0x03 v)
  | .wrAcReserved04 off v => some (.write .ac off.toNat v)
  | .wrAcUnclaimed08 off v => some (.write .ac off.toNat v)
  | .wrAcUnclaimed10 off v => some (.write .ac off.toNat v)
  | .wrAcUnclaimed20 off v => some (.write .ac off.toNat v)
  | .wrAcUnclaimed40 off v => some (.write .ac off.toNat v)
  | .wrAcUnclaimed80 off v => some (.write .ac off.toNat v)
  | .pinsetLow n => some (.pinset n .low)
  | .pinsetHigh n => some (.pinset n .high)
  | .pinsetFloating n => some (.pinset n .floating)
  | .pinsetPullUp n => some (.pinset n .pullUp)
  | .pinsetPullDown n => some (.pinset n .pullDown)
  | .pinsetAnalog n => some (.pinset n .analog)
  | .pinsetShorted n => some (.pinset n .shorted)
  | .pinsetState7 _ => none
  | .reset => some .reset
  | .init => some .init
  | .sleep m => some (.sleep m)
  | .wake => some .wake
  | .achan k u => some (.achan k u)
  | .aref u => some (.aref u)
  | .getAcOut => some .getAcOut
  | .getAcRef => some .getAcRef
  | .getPortSignal => some .getPortSignal
  | .eventReserved0A _ _ => none
  | .eventReserved0C _ _ => none
  | .eventReserved10 _ _ => none
  | .eventReserved20 _ _ => none
  | .eventReserved40 _ _ => none
  | .eventReserved80 _ _ => none
  | .eventWrite _ _ => none
  | .zReserved _ _ _ _ => none

/-- A meaning performs its transaction or refuses a reserved encoding. -/
theorem exec_eq (i : Instr) (s : State) :
    exec i s = match requestOfInstr i with
      | some q => transact q s
      | none => .refused .reservedEncoding := by
  cases i <;> rfl

theorem exec_next {i : Instr} {s t : State} (e : exec i s = .next t) :
    ∃ q, requestOfInstr i = some q ∧ transact q s = .next t := by
  rw [exec_eq] at e
  split at e
  · exact ⟨_, ‹_›, e⟩
  · cases e

theorem transact_next {q : Request} {s t : State} (e : transact q s = .next t) :
    Request.claimed s.cfg q = true ∧ admission s.init q = none ∧ performAdmitted topHandler q s = .next t :=
  transactWith_next e

/-- A Ready block performs every claimed transaction but INIT. -/
theorem transact_ready {q : Request} {s : State} (hr : s.init = .ready) (hq : q ≠ .init)
    (hc : Request.claimed s.cfg q = true) : transact q s = performAdmitted topHandler q s := by
  simp [transact, transactWith, hc, admission, hr, hq]

/-- A bus read of a claimed offset in an operating block (R152). -/
theorem transact_read {s : State} {r : Region} {off : Nat} (ho : s.Operating)
    (hc : s.cfg.claimsOffset r off = true) :
    transact (.read r off) s =
      .next (s.emit (.readData (s.readValue (regionOwner r) r off &&& s.cfg.maskAt r off))) := by
  rw [transact_ready (q := .read r off) ho.ready (by simp) hc]
  have hreg := ho.inv.registered (.inr ho.ready)
  simp only [performAdmitted, busRead, State.peek, claimAt_of_initOk hreg.initOk hreg.claims hc, Option.map_some]

/-- A bus write to a claimed offset in an operating block (R153). -/
theorem transact_write {s : State} {r : Region} {off : Nat} {v : Byte} (ho : s.Operating)
    (hc : s.cfg.claimsOffset r off = true) :
    transact (.write r off v) s = writeHandler topHandler (regionOwner r) r off v s := by
  rw [transact_ready (q := .write r off v) ho.ready (by simp) hc]
  have hreg := ho.inv.registered (.inr ho.ready)
  simp only [performAdmitted, busWrite, claimAt_of_initOk hreg.initOk hreg.claims hc]

end Sys2Proof.Machine
end

