-- ==== Sys2Proof/Laws/PerInstr.lean ====
section
/-! SUPPORT. The per-instruction family RoundTrip: decoding the encoding of a well-formed instruction, one lemma per
constructor of Instr. -/

namespace Sys2Proof.Laws

open Sys2Proof

/-- Decoding the encoding of the instruction gives it back, if it is well-formed (R90 to R97, R119). -/
def RoundTrip.Statement (i : Instr) : Prop := i.wellFormed = true → decode (encode i) (operandOf i) = i

/-! ### Rows that cover a range of offsets -/

theorem decode_rdPortReserved0A (off : Byte) (h : inRange 0x0A 0x0B off = true) :
    decodeRdPort off = .rdPortReserved0A off := by
  rw [inRange_iff] at h
  unfold decodeRdPort
  split <;> first | omega | skip
  rw [if_pos (by omega)]

theorem decode_rdPortReserved0C (off : Byte) (h : inRange 0x0C 0x0F off = true) :
    decodeRdPort off = .rdPortReserved0C off := by
  rw [inRange_iff] at h
  unfold decodeRdPort
  split <;> first | omega | skip
  rw [if_neg (by omega), if_pos (by omega)]

theorem decode_rdPortReserved18 (off : Byte) (h : inRange 0x18 0x1F off = true) :
    decodeRdPort off = .rdPortReserved18 off := by
  rw [inRange_iff] at h
  unfold decodeRdPort
  split <;> first | omega | skip
  rw [if_neg (by omega), if_neg (by omega), if_pos (by omega)]

theorem decode_rdPortUnclaimed20 (off : Byte) (h : inRange 0x20 0x3F off = true) :
    decodeRdPort off = .rdPortUnclaimed20 off := by
  rw [inRange_iff] at h
  unfold decodeRdPort
  split <;> first | omega | skip
  rw [if_neg (by omega), if_neg (by omega), if_neg (by omega), if_pos (by omega)]

theorem decode_rdPortUnclaimed40 (off : Byte) (h : inRange 0x40 0x7F off = true) :
    decodeRdPort off = .rdPortUnclaimed40 off := by
  rw [inRange_iff] at h
  unfold decodeRdPort
  split <;> first | omega | skip
  rw [if_neg (by omega), if_neg (by omega), if_neg (by omega), if_neg (by omega), if_pos (by omega)]

theorem decode_rdPortUnclaimed80 (off : Byte) (h : inRange 0x80 0xFF off = true) :
    decodeRdPort off = .rdPortUnclaimed80 off := by
  rw [inRange_iff] at h
  unfold decodeRdPort
  split <;> first | omega | skip
  rw [if_neg (by omega), if_neg (by omega), if_neg (by omega), if_neg (by omega), if_neg (by omega)]

theorem decode_wrPortReserved0A (off v : Byte) (h : inRange 0x0A 0x0B off = true) :
    decodeWrPort off v = .wrPortReserved0A off v := by
  rw [inRange_iff] at h
  unfold decodeWrPort
  split <;> first | omega | skip
  rw [if_pos (by omega)]

theorem decode_wrPortReserved0C (off v : Byte) (h : inRange 0x0C 0x0F off = true) :
    decodeWrPort off v = .wrPortReserved0C off v := by
  rw [inRange_iff] at h
  unfold decodeWrPort
  split <;> first | omega | skip
  rw [if_neg (by omega), if_pos (by omega)]

theorem decode_wrPortReserved18 (off v : Byte) (h : inRange 0x18 0x1F off = true) :
    decodeWrPort off v = .wrPortReserved18 off v := by
  rw [inRange_iff] at h
  unfold decodeWrPort
  split <;> first | omega | skip
  rw [if_neg (by omega), if_neg (by omega), if_pos (by omega)]

theorem decode_wrPortUnclaimed20 (off v : Byte) (h : inRange 0x20 0x3F off = true) :
    decodeWrPort off v = .wrPortUnclaimed20 off v := by
  rw [inRange_iff] at h
  unfold decodeWrPort
  split <;> first | omega | skip
  rw [if_neg (by omega), if_neg (by omega), if_neg (by omega), if_pos (by omega)]

theorem decode_wrPortUnclaimed40 (off v : Byte) (h : inRange 0x40 0x7F off = true) :
    decodeWrPort off v = .wrPortUnclaimed40 off v := by
  rw [inRange_iff] at h
  unfold decodeWrPort
  split <;> first | omega | skip
  rw [if_neg (by omega), if_neg (by omega), if_neg (by omega), if_neg (by omega), if_pos (by omega)]

theorem decode_wrPortUnclaimed80 (off v : Byte) (h : inRange 0x80 0xFF off = true) :
    decodeWrPort off v = .wrPortUnclaimed80 off v := by
  rw [inRange_iff] at h
  unfold decodeWrPort
  split <;> first | omega | skip
  rw [if_neg (by omega), if_neg (by omega), if_neg (by omega), if_neg (by omega), if_neg (by omega)]

theorem decode_rdVportUnclaimed04 (off : Byte) (h : inRange 0x04 0x07 off = true) :
    decodeRdVport off = .rdVportUnclaimed04 off := by
  rw [inRange_iff] at h
  unfold decodeRdVport
  split <;> first | omega | skip
  rw [if_pos (by omega)]

theorem decode_rdVportUnclaimed08 (off : Byte) (h : inRange 0x08 0x0F off = true) :
    decodeRdVport off = .rdVportUnclaimed08 off := by
  rw [inRange_iff] at h
  unfold decodeRdVport
  split <;> first | omega | skip
  rw [if_neg (by omega), if_pos (by omega)]

theorem decode_rdVportUnclaimed10 (off : Byte) (h : inRange 0x10 0x1F off = true) :
    decodeRdVport off = .rdVportUnclaimed10 off := by
  rw [inRange_iff] at h
  unfold decodeRdVport
  split <;> first | omega | skip
  rw [if_neg (by omega), if_neg (by omega), if_pos (by omega)]

theorem decode_rdVportUnclaimed20 (off : Byte) (h : inRange 0x20 0x3F off = true) :
    decodeRdVport off = .rdVportUnclaimed20 off := by
  rw [inRange_iff] at h
  unfold decodeRdVport
  split <;> first | omega | skip
  rw [if_neg (by omega), if_neg (by omega), if_neg (by omega), if_pos (by omega)]

theorem decode_rdVportUnclaimed40 (off : Byte) (h : inRange 0x40 0x7F off = true) :
    decodeRdVport off = .rdVportUnclaimed40 off := by
  rw [inRange_iff] at h
  unfold decodeRdVport
  split <;> first | omega | skip
  rw [if_neg (by omega), if_neg (by omega), if_neg (by omega), if_neg (by omega), if_pos (by omega)]

theorem decode_rdVportUnclaimed80 (off : Byte) (h : inRange 0x80 0xFF off = true) :
    decodeRdVport off = .rdVportUnclaimed80 off := by
  rw [inRange_iff] at h
  unfold decodeRdVport
  split <;> first | omega | skip
  rw [if_neg (by omega), if_neg (by omega), if_neg (by omega), if_neg (by omega), if_neg (by omega)]

theorem decode_wrVportUnclaimed04 (off v : Byte) (h : inRange 0x04 0x07 off = true) :
    decodeWrVport off v = .wrVportUnclaimed04 off v := by
  rw [inRange_iff] at h
  unfold decodeWrVport
  split <;> first | omega | skip
  rw [if_pos (by omega)]

theorem decode_wrVportUnclaimed08 (off v : Byte) (h : inRange 0x08 0x0F off = true) :
    decodeWrVport off v = .wrVportUnclaimed08 off v := by
  rw [inRange_iff] at h
  unfold decodeWrVport
  split <;> first | omega | skip
  rw [if_neg (by omega), if_pos (by omega)]

theorem decode_wrVportUnclaimed10 (off v : Byte) (h : inRange 0x10 0x1F off = true) :
    decodeWrVport off v = .wrVportUnclaimed10 off v := by
  rw [inRange_iff] at h
  unfold decodeWrVport
  split <;> first | omega | skip
  rw [if_neg (by omega), if_neg (by omega), if_pos (by omega)]

theorem decode_wrVportUnclaimed20 (off v : Byte) (h : inRange 0x20 0x3F off = true) :
    decodeWrVport off v = .wrVportUnclaimed20 off v := by
  rw [inRange_iff] at h
  unfold decodeWrVport
  split <;> first | omega | skip
  rw [if_neg (by omega), if_neg (by omega), if_neg (by omega), if_pos (by omega)]

theorem decode_wrVportUnclaimed40 (off v : Byte) (h : inRange 0x40 0x7F off = true) :
    decodeWrVport off v = .wrVportUnclaimed40 off v := by
  rw [inRange_iff] at h
  unfold decodeWrVport
  split <;> first | omega | skip
  rw [if_neg (by omega), if_neg (by omega), if_neg (by omega), if_neg (by omega), if_pos (by omega)]

theorem decode_wrVportUnclaimed80 (off v : Byte) (h : inRange 0x80 0xFF off = true) :
    decodeWrVport off v = .wrVportUnclaimed80 off v := by
  rw [inRange_iff] at h
  unfold decodeWrVport
  split <;> first | omega | skip
  rw [if_neg (by omega), if_neg (by omega), if_neg (by omega), if_neg (by omega), if_neg (by omega)]

theorem decode_rdAcReserved04 (off : Byte) (h : inRange 0x04 0x05 off = true) :
    decodeRdAc off = .rdAcReserved04 off := by
  rw [inRange_iff] at h
  unfold decodeRdAc
  split <;> first | omega | skip
  rw [if_pos (by omega)]

theorem decode_rdAcUnclaimed08 (off : Byte) (h : inRange 0x08 0x0F off = true) :
    decodeRdAc off = .rdAcUnclaimed08 off := by
  rw [inRange_iff] at h
  unfold decodeRdAc
  split <;> first | omega | skip
  rw [if_neg (by omega), if_pos (by omega)]

theorem decode_rdAcUnclaimed10 (off : Byte) (h : inRange 0x10 0x1F off = true) :
    decodeRdAc off = .rdAcUnclaimed10 off := by
  rw [inRange_iff] at h
  unfold decodeRdAc
  split <;> first | omega | skip
  rw [if_neg (by omega), if_neg (by omega), if_pos (by omega)]

theorem decode_rdAcUnclaimed20 (off : Byte) (h : inRange 0x20 0x3F off = true) :
    decodeRdAc off = .rdAcUnclaimed20 off := by
  rw [inRange_iff] at h
  unfold decodeRdAc
  split <;> first | omega | skip
  rw [if_neg (by omega), if_neg (by omega), if_neg (by omega), if_pos (by omega)]

theorem decode_rdAcUnclaimed40 (off : Byte) (h : inRange 0x40 0x7F off = true) :
    decodeRdAc off = .rdAcUnclaimed40 off := by
  rw [inRange_iff] at h
  unfold decodeRdAc
  split <;> first | omega | skip
  rw [if_neg (by omega), if_neg (by omega), if_neg (by omega), if_neg (by omega), if_pos (by omega)]

theorem decode_rdAcUnclaimed80 (off : Byte) (h : inRange 0x80 0xFF off = true) :
    decodeRdAc off = .rdAcUnclaimed80 off := by
  rw [inRange_iff] at h
  unfold decodeRdAc
  split <;> first | omega | skip
  rw [if_neg (by omega), if_neg (by omega), if_neg (by omega), if_neg (by omega), if_neg (by omega)]

theorem decode_wrAcReserved04 (off v : Byte) (h : inRange 0x04 0x05 off = true) :
    decodeWrAc off v = .wrAcReserved04 off v := by
  rw [inRange_iff] at h
  unfold decodeWrAc
  split <;> first | omega | skip
  rw [if_pos (by omega)]

theorem decode_wrAcUnclaimed08 (off v : Byte) (h : inRange 0x08 0x0F off = true) :
    decodeWrAc off v = .wrAcUnclaimed08 off v := by
  rw [inRange_iff] at h
  unfold decodeWrAc
  split <;> first | omega | skip
  rw [if_neg (by omega), if_pos (by omega)]

theorem decode_wrAcUnclaimed10 (off v : Byte) (h : inRange 0x10 0x1F off = true) :
    decodeWrAc off v = .wrAcUnclaimed10 off v := by
  rw [inRange_iff] at h
  unfold decodeWrAc
  split <;> first | omega | skip
  rw [if_neg (by omega), if_neg (by omega), if_pos (by omega)]

theorem decode_wrAcUnclaimed20 (off v : Byte) (h : inRange 0x20 0x3F off = true) :
    decodeWrAc off v = .wrAcUnclaimed20 off v := by
  rw [inRange_iff] at h
  unfold decodeWrAc
  split <;> first | omega | skip
  rw [if_neg (by omega), if_neg (by omega), if_neg (by omega), if_pos (by omega)]

theorem decode_wrAcUnclaimed40 (off v : Byte) (h : inRange 0x40 0x7F off = true) :
    decodeWrAc off v = .wrAcUnclaimed40 off v := by
  rw [inRange_iff] at h
  unfold decodeWrAc
  split <;> first | omega | skip
  rw [if_neg (by omega), if_neg (by omega), if_neg (by omega), if_neg (by omega), if_pos (by omega)]

theorem decode_wrAcUnclaimed80 (off v : Byte) (h : inRange 0x80 0xFF off = true) :
    decodeWrAc off v = .wrAcUnclaimed80 off v := by
  rw [inRange_iff] at h
  unfold decodeWrAc
  split <;> first | omega | skip
  rw [if_neg (by omega), if_neg (by omega), if_neg (by omega), if_neg (by omega), if_neg (by omega)]

theorem decode_eventReserved0A (off d : Byte) (u : Volt) (h : inRange 0x0A 0x0B off = true) :
    decodeEvent off d u = .eventReserved0A off d := by
  rw [inRange_iff] at h
  unfold decodeEvent
  split <;> first | omega | skip
  rw [if_pos (by omega)]

theorem decode_eventReserved0C (off d : Byte) (u : Volt) (h : inRange 0x0C 0x0F off = true) :
    decodeEvent off d u = .eventReserved0C off d := by
  rw [inRange_iff] at h
  unfold decodeEvent
  split <;> first | omega | skip
  rw [if_neg (by omega), if_pos (by omega)]

theorem decode_eventReserved10 (off d : Byte) (u : Volt) (h : inRange 0x10 0x1F off = true) :
    decodeEvent off d u = .eventReserved10 off d := by
  rw [inRange_iff] at h
  unfold decodeEvent
  split <;> first | omega | skip
  rw [if_neg (by omega), if_neg (by omega), if_pos (by omega)]

theorem decode_eventReserved20 (off d : Byte) (u : Volt) (h : inRange 0x20 0x3F off = true) :
    decodeEvent off d u = .eventReserved20 off d := by
  rw [inRange_iff] at h
  unfold decodeEvent
  split <;> first | omega | skip
  rw [if_neg (by omega), if_neg (by omega), if_neg (by omega), if_pos (by omega)]

theorem decode_eventReserved40 (off d : Byte) (u : Volt) (h : inRange 0x40 0x7F off = true) :
    decodeEvent off d u = .eventReserved40 off d := by
  rw [inRange_iff] at h
  unfold decodeEvent
  split <;> first | omega | skip
  rw [if_neg (by omega), if_neg (by omega), if_neg (by omega), if_neg (by omega), if_pos (by omega)]

theorem decode_eventReserved80 (off d : Byte) (u : Volt) (h : inRange 0x80 0xFF off = true) :
    decodeEvent off d u = .eventReserved80 off d := by
  rw [inRange_iff] at h
  unfold decodeEvent
  split <;> first | omega | skip
  rw [if_neg (by omega), if_neg (by omega), if_neg (by omega), if_neg (by omega), if_neg (by omega)]

/-! ### Events with fields -/

theorem decode_pinset (n : PinIx) (st : PinState) :
    decodeEvent 0x00 (pinsetArg n st) 0 = match st with
      | .low => .pinsetLow n
      | .high => .pinsetHigh n
      | .floating => .pinsetFloating n
      | .pullUp => .pinsetPullUp n
      | .pullDown => .pinsetPullDown n
      | .analog => .pinsetAnalog n
      | .shorted => .pinsetShorted n := by
  obtain ⟨h1, h2⟩ := pinset_arg n st
  show (match PinState.ofCode (pinsetCode (pinsetArg n st)) with
    | some .low => Instr.pinsetLow (pinsetPin (pinsetArg n st))
    | some .high => .pinsetHigh (pinsetPin (pinsetArg n st))
    | some .floating => .pinsetFloating (pinsetPin (pinsetArg n st))
    | some .pullUp => .pinsetPullUp (pinsetPin (pinsetArg n st))
    | some .pullDown => .pinsetPullDown (pinsetPin (pinsetArg n st))
    | some .analog => .pinsetAnalog (pinsetPin (pinsetArg n st))
    | some .shorted => .pinsetShorted (pinsetPin (pinsetArg n st))
    | none => .pinsetState7 (pinsetArg n st)) = _
  rw [h2, h1]
  cases st <;> rfl

theorem decode_pinset7 (d : Byte) (h : (d.extractLsb' 0 3 == 7#3) = true) :
    decodeEvent 0x00 d 0 = .pinsetState7 d := by
  have h2 : PinState.ofCode (pinsetCode d) = none := (pinState_ofCode_none _).2 (beq_iff_eq.1 h)
  unfold decodeEvent
  simp only [h2]
  rfl

theorem decode_sleep (m : SleepMode) : decodeEvent 0x03 (0#5 ++ m) 0 = .sleep m := by
  have h : (0#5 ++ m : Byte).extractLsb' 0 3 = m := by revert m; decide
  show Instr.sleep ((0#5 ++ m : Byte).extractLsb' 0 3) = _
  rw [h]

/-! ### The lemmas of the family -/

theorem RoundTrip.rdPortDir : RoundTrip.Statement .rdPortDir := fun _ => decode_encodeRead _ _ 0
theorem RoundTrip.rdPortDirset : RoundTrip.Statement .rdPortDirset := fun _ => decode_encodeRead _ _ 0
theorem RoundTrip.rdPortDirclr : RoundTrip.Statement .rdPortDirclr := fun _ => decode_encodeRead _ _ 0
theorem RoundTrip.rdPortDirtgl : RoundTrip.Statement .rdPortDirtgl := fun _ => decode_encodeRead _ _ 0
theorem RoundTrip.rdPortOut : RoundTrip.Statement .rdPortOut := fun _ => decode_encodeRead _ _ 0
theorem RoundTrip.rdPortOutset : RoundTrip.Statement .rdPortOutset := fun _ => decode_encodeRead _ _ 0
theorem RoundTrip.rdPortOutclr : RoundTrip.Statement .rdPortOutclr := fun _ => decode_encodeRead _ _ 0
theorem RoundTrip.rdPortOuttgl : RoundTrip.Statement .rdPortOuttgl := fun _ => decode_encodeRead _ _ 0
theorem RoundTrip.rdPortIn : RoundTrip.Statement .rdPortIn := fun _ => decode_encodeRead _ _ 0
theorem RoundTrip.rdPortIntflags : RoundTrip.Statement .rdPortIntflags := fun _ => decode_encodeRead _ _ 0
theorem RoundTrip.rdPortPin0ctrl : RoundTrip.Statement .rdPortPin0ctrl := fun _ => decode_encodeRead _ _ 0
theorem RoundTrip.rdPortPin1ctrl : RoundTrip.Statement .rdPortPin1ctrl := fun _ => decode_encodeRead _ _ 0
theorem RoundTrip.rdPortPin2ctrl : RoundTrip.Statement .rdPortPin2ctrl := fun _ => decode_encodeRead _ _ 0
theorem RoundTrip.rdPortPin3ctrl : RoundTrip.Statement .rdPortPin3ctrl := fun _ => decode_encodeRead _ _ 0
theorem RoundTrip.rdPortPin4ctrl : RoundTrip.Statement .rdPortPin4ctrl := fun _ => decode_encodeRead _ _ 0
theorem RoundTrip.rdPortPin5ctrl : RoundTrip.Statement .rdPortPin5ctrl := fun _ => decode_encodeRead _ _ 0
theorem RoundTrip.rdPortPin6ctrl : RoundTrip.Statement .rdPortPin6ctrl := fun _ => decode_encodeRead _ _ 0
theorem RoundTrip.rdPortPin7ctrl : RoundTrip.Statement .rdPortPin7ctrl := fun _ => decode_encodeRead _ _ 0
theorem RoundTrip.rdPortReserved0A (off : Byte) : RoundTrip.Statement (.rdPortReserved0A off) :=
  fun h => (decode_encodeRead _ off 0).trans (decode_rdPortReserved0A off h)
theorem RoundTrip.rdPortReserved0C (off : Byte) : RoundTrip.Statement (.rdPortReserved0C off) :=
  fun h => (decode_encodeRead _ off 0).trans (decode_rdPortReserved0C off h)
theorem RoundTrip.rdPortReserved18 (off : Byte) : RoundTrip.Statement (.rdPortReserved18 off) :=
  fun h => (decode_encodeRead _ off 0).trans (decode_rdPortReserved18 off h)
theorem RoundTrip.rdPortUnclaimed20 (off : Byte) : RoundTrip.Statement (.rdPortUnclaimed20 off) :=
  fun h => (decode_encodeRead _ off 0).trans (decode_rdPortUnclaimed20 off h)
theorem RoundTrip.rdPortUnclaimed40 (off : Byte) : RoundTrip.Statement (.rdPortUnclaimed40 off) :=
  fun h => (decode_encodeRead _ off 0).trans (decode_rdPortUnclaimed40 off h)
theorem RoundTrip.rdPortUnclaimed80 (off : Byte) : RoundTrip.Statement (.rdPortUnclaimed80 off) :=
  fun h => (decode_encodeRead _ off 0).trans (decode_rdPortUnclaimed80 off h)
theorem RoundTrip.wrPortDir (v : Byte) : RoundTrip.Statement (.wrPortDir v) := fun _ => decode_encodeWrite _ _ v 0
theorem RoundTrip.wrPortDirset (v : Byte) : RoundTrip.Statement (.wrPortDirset v) := fun _ => decode_encodeWrite _ _ v 0
theorem RoundTrip.wrPortDirclr (v : Byte) : RoundTrip.Statement (.wrPortDirclr v) := fun _ => decode_encodeWrite _ _ v 0
theorem RoundTrip.wrPortDirtgl (v : Byte) : RoundTrip.Statement (.wrPortDirtgl v) := fun _ => decode_encodeWrite _ _ v 0
theorem RoundTrip.wrPortOut (v : Byte) : RoundTrip.Statement (.wrPortOut v) := fun _ => decode_encodeWrite _ _ v 0
theorem RoundTrip.wrPortOutset (v : Byte) : RoundTrip.Statement (.wrPortOutset v) := fun _ => decode_encodeWrite _ _ v 0
theorem RoundTrip.wrPortOutclr (v : Byte) : RoundTrip.Statement (.wrPortOutclr v) := fun _ => decode_encodeWrite _ _ v 0
theorem RoundTrip.wrPortOuttgl (v : Byte) : RoundTrip.Statement (.wrPortOuttgl v) := fun _ => decode_encodeWrite _ _ v 0
theorem RoundTrip.wrPortIn (v : Byte) : RoundTrip.Statement (.wrPortIn v) := fun _ => decode_encodeWrite _ _ v 0
theorem RoundTrip.wrPortIntflags (v : Byte) : RoundTrip.Statement (.wrPortIntflags v) :=
  fun _ => decode_encodeWrite _ _ v 0
theorem RoundTrip.wrPortPin0ctrl (v : Byte) : RoundTrip.Statement (.wrPortPin0ctrl v) :=
  fun _ => decode_encodeWrite _ _ v 0
theorem RoundTrip.wrPortPin1ctrl (v : Byte) : RoundTrip.Statement (.wrPortPin1ctrl v) :=
  fun _ => decode_encodeWrite _ _ v 0
theorem RoundTrip.wrPortPin2ctrl (v : Byte) : RoundTrip.Statement (.wrPortPin2ctrl v) :=
  fun _ => decode_encodeWrite _ _ v 0
theorem RoundTrip.wrPortPin3ctrl (v : Byte) : RoundTrip.Statement (.wrPortPin3ctrl v) :=
  fun _ => decode_encodeWrite _ _ v 0
theorem RoundTrip.wrPortPin4ctrl (v : Byte) : RoundTrip.Statement (.wrPortPin4ctrl v) :=
  fun _ => decode_encodeWrite _ _ v 0
theorem RoundTrip.wrPortPin5ctrl (v : Byte) : RoundTrip.Statement (.wrPortPin5ctrl v) :=
  fun _ => decode_encodeWrite _ _ v 0
theorem RoundTrip.wrPortPin6ctrl (v : Byte) : RoundTrip.Statement (.wrPortPin6ctrl v) :=
  fun _ => decode_encodeWrite _ _ v 0
theorem RoundTrip.wrPortPin7ctrl (v : Byte) : RoundTrip.Statement (.wrPortPin7ctrl v) :=
  fun _ => decode_encodeWrite _ _ v 0
theorem RoundTrip.wrPortReserved0A (off : Byte) (v : Byte) : RoundTrip.Statement (.wrPortReserved0A off v) :=
  fun h => (decode_encodeWrite _ off v 0).trans (decode_wrPortReserved0A off v h)
theorem RoundTrip.wrPortReserved0C (off : Byte) (v : Byte) : RoundTrip.Statement (.wrPortReserved0C off v) :=
  fun h => (decode_encodeWrite _ off v 0).trans (decode_wrPortReserved0C off v h)
theorem RoundTrip.wrPortReserved18 (off : Byte) (v : Byte) : RoundTrip.Statement (.wrPortReserved18 off v) :=
  fun h => (decode_encodeWrite _ off v 0).trans (decode_wrPortReserved18 off v h)
theorem RoundTrip.wrPortUnclaimed20 (off : Byte) (v : Byte) : RoundTrip.Statement (.wrPortUnclaimed20 off v) :=
  fun h => (decode_encodeWrite _ off v 0).trans (decode_wrPortUnclaimed20 off v h)
theorem RoundTrip.wrPortUnclaimed40 (off : Byte) (v : Byte) : RoundTrip.Statement (.wrPortUnclaimed40 off v) :=
  fun h => (decode_encodeWrite _ off v 0).trans (decode_wrPortUnclaimed40 off v h)
theorem RoundTrip.wrPortUnclaimed80 (off : Byte) (v : Byte) : RoundTrip.Statement (.wrPortUnclaimed80 off v) :=
  fun h => (decode_encodeWrite _ off v 0).trans (decode_wrPortUnclaimed80 off v h)
theorem RoundTrip.rdVportDir : RoundTrip.Statement .rdVportDir := fun _ => decode_encodeRead _ _ 0
theorem RoundTrip.rdVportOut : RoundTrip.Statement .rdVportOut := fun _ => decode_encodeRead _ _ 0
theorem RoundTrip.rdVportIn : RoundTrip.Statement .rdVportIn := fun _ => decode_encodeRead _ _ 0
theorem RoundTrip.rdVportIntflags : RoundTrip.Statement .rdVportIntflags := fun _ => decode_encodeRead _ _ 0
theorem RoundTrip.rdVportUnclaimed04 (off : Byte) : RoundTrip.Statement (.rdVportUnclaimed04 off) :=
  fun h => (decode_encodeRead _ off 0).trans (decode_rdVportUnclaimed04 off h)
theorem RoundTrip.rdVportUnclaimed08 (off : Byte) : RoundTrip.Statement (.rdVportUnclaimed08 off) :=
  fun h => (decode_encodeRead _ off 0).trans (decode_rdVportUnclaimed08 off h)
theorem RoundTrip.rdVportUnclaimed10 (off : Byte) : RoundTrip.Statement (.rdVportUnclaimed10 off) :=
  fun h => (decode_encodeRead _ off 0).trans (decode_rdVportUnclaimed10 off h)
theorem RoundTrip.rdVportUnclaimed20 (off : Byte) : RoundTrip.Statement (.rdVportUnclaimed20 off) :=
  fun h => (decode_encodeRead _ off 0).trans (decode_rdVportUnclaimed20 off h)
theorem RoundTrip.rdVportUnclaimed40 (off : Byte) : RoundTrip.Statement (.rdVportUnclaimed40 off) :=
  fun h => (decode_encodeRead _ off 0).trans (decode_rdVportUnclaimed40 off h)
theorem RoundTrip.rdVportUnclaimed80 (off : Byte) : RoundTrip.Statement (.rdVportUnclaimed80 off) :=
  fun h => (decode_encodeRead _ off 0).trans (decode_rdVportUnclaimed80 off h)
theorem RoundTrip.wrVportDir (v : Byte) : RoundTrip.Statement (.wrVportDir v) := fun _ => decode_encodeWrite _ _ v 0
theorem RoundTrip.wrVportOut (v : Byte) : RoundTrip.Statement (.wrVportOut v) := fun _ => decode_encodeWrite _ _ v 0
theorem RoundTrip.wrVportIn (v : Byte) : RoundTrip.Statement (.wrVportIn v) := fun _ => decode_encodeWrite _ _ v 0
theorem RoundTrip.wrVportIntflags (v : Byte) : RoundTrip.Statement (.wrVportIntflags v) :=
  fun _ => decode_encodeWrite _ _ v 0
theorem RoundTrip.wrVportUnclaimed04 (off : Byte) (v : Byte) : RoundTrip.Statement (.wrVportUnclaimed04 off v) :=
  fun h => (decode_encodeWrite _ off v 0).trans (decode_wrVportUnclaimed04 off v h)
theorem RoundTrip.wrVportUnclaimed08 (off : Byte) (v : Byte) : RoundTrip.Statement (.wrVportUnclaimed08 off v) :=
  fun h => (decode_encodeWrite _ off v 0).trans (decode_wrVportUnclaimed08 off v h)
theorem RoundTrip.wrVportUnclaimed10 (off : Byte) (v : Byte) : RoundTrip.Statement (.wrVportUnclaimed10 off v) :=
  fun h => (decode_encodeWrite _ off v 0).trans (decode_wrVportUnclaimed10 off v h)
theorem RoundTrip.wrVportUnclaimed20 (off : Byte) (v : Byte) : RoundTrip.Statement (.wrVportUnclaimed20 off v) :=
  fun h => (decode_encodeWrite _ off v 0).trans (decode_wrVportUnclaimed20 off v h)
theorem RoundTrip.wrVportUnclaimed40 (off : Byte) (v : Byte) : RoundTrip.Statement (.wrVportUnclaimed40 off v) :=
  fun h => (decode_encodeWrite _ off v 0).trans (decode_wrVportUnclaimed40 off v h)
theorem RoundTrip.wrVportUnclaimed80 (off : Byte) (v : Byte) : RoundTrip.Statement (.wrVportUnclaimed80 off v) :=
  fun h => (decode_encodeWrite _ off v 0).trans (decode_wrVportUnclaimed80 off v h)
theorem RoundTrip.rdAcCtrla : RoundTrip.Statement .rdAcCtrla := fun _ => decode_encodeRead _ _ 0
theorem RoundTrip.rdAcMuxctrla : RoundTrip.Statement .rdAcMuxctrla := fun _ => decode_encodeRead _ _ 0
theorem RoundTrip.rdAcIntctrl : RoundTrip.Statement .rdAcIntctrl := fun _ => decode_encodeRead _ _ 0
theorem RoundTrip.rdAcStatus : RoundTrip.Statement .rdAcStatus := fun _ => decode_encodeRead _ _ 0
theorem RoundTrip.rdAcReserved01 : RoundTrip.Statement .rdAcReserved01 := fun _ => decode_encodeRead _ _ 0
theorem RoundTrip.rdAcReserved03 : RoundTrip.Statement .rdAcReserved03 := fun _ => decode_encodeRead _ _ 0
theorem RoundTrip.rdAcReserved04 (off : Byte) : RoundTrip.Statement (.rdAcReserved04 off) :=
  fun h => (decode_encodeRead _ off 0).trans (decode_rdAcReserved04 off h)
theorem RoundTrip.rdAcUnclaimed08 (off : Byte) : RoundTrip.Statement (.rdAcUnclaimed08 off) :=
  fun h => (decode_encodeRead _ off 0).trans (decode_rdAcUnclaimed08 off h)
theorem RoundTrip.rdAcUnclaimed10 (off : Byte) : RoundTrip.Statement (.rdAcUnclaimed10 off) :=
  fun h => (decode_encodeRead _ off 0).trans (decode_rdAcUnclaimed10 off h)
theorem RoundTrip.rdAcUnclaimed20 (off : Byte) : RoundTrip.Statement (.rdAcUnclaimed20 off) :=
  fun h => (decode_encodeRead _ off 0).trans (decode_rdAcUnclaimed20 off h)
theorem RoundTrip.rdAcUnclaimed40 (off : Byte) : RoundTrip.Statement (.rdAcUnclaimed40 off) :=
  fun h => (decode_encodeRead _ off 0).trans (decode_rdAcUnclaimed40 off h)
theorem RoundTrip.rdAcUnclaimed80 (off : Byte) : RoundTrip.Statement (.rdAcUnclaimed80 off) :=
  fun h => (decode_encodeRead _ off 0).trans (decode_rdAcUnclaimed80 off h)
theorem RoundTrip.wrAcCtrla (v : Byte) : RoundTrip.Statement (.wrAcCtrla v) := fun _ => decode_encodeWrite _ _ v 0
theorem RoundTrip.wrAcMuxctrla (v : Byte) : RoundTrip.Statement (.wrAcMuxctrla v) := fun _ => decode_encodeWrite _ _ v 0
theorem RoundTrip.wrAcIntctrl (v : Byte) : RoundTrip.Statement (.wrAcIntctrl v) := fun _ => decode_encodeWrite _ _ v 0
theorem RoundTrip.wrAcStatus (v : Byte) : RoundTrip.Statement (.wrAcStatus v) := fun _ => decode_encodeWrite _ _ v 0
theorem RoundTrip.wrAcReserved01 (v : Byte) : RoundTrip.Statement (.wrAcReserved01 v) :=
  fun _ => decode_encodeWrite _ _ v 0
theorem RoundTrip.wrAcReserved03 (v : Byte) : RoundTrip.Statement (.wrAcReserved03 v) :=
  fun _ => decode_encodeWrite _ _ v 0
theorem RoundTrip.wrAcReserved04 (off : Byte) (v : Byte) : RoundTrip.Statement (.wrAcReserved04 off v) :=
  fun h => (decode_encodeWrite _ off v 0).trans (decode_wrAcReserved04 off v h)
theorem RoundTrip.wrAcUnclaimed08 (off : Byte) (v : Byte) : RoundTrip.Statement (.wrAcUnclaimed08 off v) :=
  fun h => (decode_encodeWrite _ off v 0).trans (decode_wrAcUnclaimed08 off v h)
theorem RoundTrip.wrAcUnclaimed10 (off : Byte) (v : Byte) : RoundTrip.Statement (.wrAcUnclaimed10 off v) :=
  fun h => (decode_encodeWrite _ off v 0).trans (decode_wrAcUnclaimed10 off v h)
theorem RoundTrip.wrAcUnclaimed20 (off : Byte) (v : Byte) : RoundTrip.Statement (.wrAcUnclaimed20 off v) :=
  fun h => (decode_encodeWrite _ off v 0).trans (decode_wrAcUnclaimed20 off v h)
theorem RoundTrip.wrAcUnclaimed40 (off : Byte) (v : Byte) : RoundTrip.Statement (.wrAcUnclaimed40 off v) :=
  fun h => (decode_encodeWrite _ off v 0).trans (decode_wrAcUnclaimed40 off v h)
theorem RoundTrip.wrAcUnclaimed80 (off : Byte) (v : Byte) : RoundTrip.Statement (.wrAcUnclaimed80 off v) :=
  fun h => (decode_encodeWrite _ off v 0).trans (decode_wrAcUnclaimed80 off v h)
theorem RoundTrip.pinsetLow (n : PinIx) : RoundTrip.Statement (.pinsetLow n) :=
  fun _ => (decode_encodeEvent _ _ 0).trans (decode_pinset n .low)
theorem RoundTrip.pinsetHigh (n : PinIx) : RoundTrip.Statement (.pinsetHigh n) :=
  fun _ => (decode_encodeEvent _ _ 0).trans (decode_pinset n .high)
theorem RoundTrip.pinsetFloating (n : PinIx) : RoundTrip.Statement (.pinsetFloating n) :=
  fun _ => (decode_encodeEvent _ _ 0).trans (decode_pinset n .floating)
theorem RoundTrip.pinsetPullUp (n : PinIx) : RoundTrip.Statement (.pinsetPullUp n) :=
  fun _ => (decode_encodeEvent _ _ 0).trans (decode_pinset n .pullUp)
theorem RoundTrip.pinsetPullDown (n : PinIx) : RoundTrip.Statement (.pinsetPullDown n) :=
  fun _ => (decode_encodeEvent _ _ 0).trans (decode_pinset n .pullDown)
theorem RoundTrip.pinsetAnalog (n : PinIx) : RoundTrip.Statement (.pinsetAnalog n) :=
  fun _ => (decode_encodeEvent _ _ 0).trans (decode_pinset n .analog)
theorem RoundTrip.pinsetShorted (n : PinIx) : RoundTrip.Statement (.pinsetShorted n) :=
  fun _ => (decode_encodeEvent _ _ 0).trans (decode_pinset n .shorted)
theorem RoundTrip.pinsetState7 (d : Byte) : RoundTrip.Statement (.pinsetState7 d) :=
  fun h => (decode_encodeEvent _ _ 0).trans (decode_pinset7 d h)
theorem RoundTrip.reset : RoundTrip.Statement .reset := fun _ => decode_encodeEvent _ _ 0
theorem RoundTrip.init : RoundTrip.Statement .init := fun _ => decode_encodeEvent _ _ 0
theorem RoundTrip.sleep (m : SleepMode) : RoundTrip.Statement (.sleep m) :=
  fun _ => (decode_encodeEvent _ _ 0).trans (decode_sleep m)
theorem RoundTrip.wake : RoundTrip.Statement .wake := fun _ => decode_encodeEvent _ _ 0
theorem RoundTrip.achan (k : SourceId) (u : Volt) : RoundTrip.Statement (.achan k u) :=
  fun _ => decode_encodeEvent _ _ u
theorem RoundTrip.aref (u : Volt) : RoundTrip.Statement (.aref u) := fun _ => decode_encodeEvent _ _ u
theorem RoundTrip.getAcOut : RoundTrip.Statement .getAcOut := fun _ => decode_encodeEvent _ _ 0
theorem RoundTrip.getAcRef : RoundTrip.Statement .getAcRef := fun _ => decode_encodeEvent _ _ 0
theorem RoundTrip.getPortSignal : RoundTrip.Statement .getPortSignal := fun _ => decode_encodeEvent _ _ 0
theorem RoundTrip.eventReserved0A (off : Byte) (d : Byte) : RoundTrip.Statement (.eventReserved0A off d) :=
  fun h => (decode_encodeEvent off d 0).trans (decode_eventReserved0A off d 0 h)
theorem RoundTrip.eventReserved0C (off : Byte) (d : Byte) : RoundTrip.Statement (.eventReserved0C off d) :=
  fun h => (decode_encodeEvent off d 0).trans (decode_eventReserved0C off d 0 h)
theorem RoundTrip.eventReserved10 (off : Byte) (d : Byte) : RoundTrip.Statement (.eventReserved10 off d) :=
  fun h => (decode_encodeEvent off d 0).trans (decode_eventReserved10 off d 0 h)
theorem RoundTrip.eventReserved20 (off : Byte) (d : Byte) : RoundTrip.Statement (.eventReserved20 off d) :=
  fun h => (decode_encodeEvent off d 0).trans (decode_eventReserved20 off d 0 h)
theorem RoundTrip.eventReserved40 (off : Byte) (d : Byte) : RoundTrip.Statement (.eventReserved40 off d) :=
  fun h => (decode_encodeEvent off d 0).trans (decode_eventReserved40 off d 0 h)
theorem RoundTrip.eventReserved80 (off : Byte) (d : Byte) : RoundTrip.Statement (.eventReserved80 off d) :=
  fun h => (decode_encodeEvent off d 0).trans (decode_eventReserved80 off d 0 h)
theorem RoundTrip.eventWrite (off : Byte) (d : Byte) : RoundTrip.Statement (.eventWrite off d) :=
  fun _ => decode_encodeWrite _ _ _ 0
theorem RoundTrip.zReserved (r : BitVec 2) (w : Bool) (off : Byte) (d : Byte) : RoundTrip.Statement (.zReserved r w off d) :=
  fun _ => decode_z r w off d 0

end Sys2Proof.Laws
end

