-- ==== Sys2Proof/Laws/Silent.lean ====
section
/-! SUPPORT. The shared operations when no hook outside the block acts (`Silent`): each completes, and the state it leaves
is known, the trace included. -/

namespace Sys2Proof.Machine

open Sys2Proof

/-! ## Events appended to the trace -/

section

variable (s : State) (l : List Event)

@[simp] theorem State.emitAll_cfg : (s.emitAll l).cfg = s.cfg := rfl
@[simp] theorem State.emitAll_port : (s.emitAll l).port = s.port := rfl
@[simp] theorem State.emitAll_pins : (s.emitAll l).pins = s.pins := rfl
@[simp] theorem State.emitAll_subs : (s.emitAll l).subs = s.subs := rfl
@[simp] theorem State.emitAll_delivering : (s.emitAll l).delivering = s.delivering := rfl
@[simp] theorem State.emitAll_portReq : (s.emitAll l).portReq = s.portReq := rfl
@[simp] theorem State.emitAll_ac : (s.emitAll l).ac = s.ac := rfl
@[simp] theorem State.emitAll_acReq : (s.emitAll l).acReq = s.acReq := rfl
@[simp] theorem State.emitAll_sleep : (s.emitAll l).sleep = s.sleep := rfl
@[simp] theorem State.emitAll_claims : (s.emitAll l).claims = s.claims := rfl
@[simp] theorem State.emitAll_init : (s.emitAll l).init = s.init := rfl
@[simp] theorem State.emitAll_trace : (s.emitAll l).trace = s.trace ++ l := rfl
@[simp] theorem State.emitAll_env : (s.emitAll l).env = s.env := rfl
@[simp] theorem State.emitAll_inbox : (s.emitAll l).inbox = s.inbox := rfl

@[simp] theorem State.emitAll_nil : s.emitAll [] = s := by simp [State.emitAll]

@[simp] theorem State.emitAll_emitAll (k : List Event) : (s.emitAll l).emitAll k = s.emitAll (l ++ k) := by
  simp [State.emitAll]

theorem State.emit_eq (e : Event) : s.emit e = s.emitAll [e] := rfl

end

/-! ## States equal but for the PORT -/

theorem OnlyPortDiffers.refl (s : State) : OnlyPortDiffers s s := rfl

theorem OnlyPortDiffers.trans {s t u : State} (h : OnlyPortDiffers s t) (k : OnlyPortDiffers t u) :
    OnlyPortDiffers s u := by
  unfold OnlyPortDiffers at *; rw [k, h]

/-! ## Hooks outside the block -/

theorem callOutside_silent {s : State} (h : Handler) (bus : BusId) (id : SignalId) (p : Payload) (tag : Int)
    (hs : s.env = []) : callOutside h bus id p tag s = .next (s.emitAll [.signal bus id p tag]) := by
  unfold callOutside
  simp only [State.emit_env, hs]
  rfl

/-- A delivery to hooks that only report: `f x` is what `x` reports. -/
theorem deliver_silent {call : Subscriber → State → Res} {bus : BusId} {snap l : List Subscriber} {s : State}
    {f : Subscriber → List Event} (hc : ∀ x ∈ l, ∀ a, call x (s.emitAll a) = .next ((s.emitAll a).emitAll (f x)))
    (hl : s.subscribers bus = snap) (a : List Event) :
    deliver call bus snap l (s.emitAll a) = .next (s.emitAll (a ++ l.flatMap f)) := by
  induction l generalizing a with
  | nil => simp [deliver]
  | cons x l ih =>
    have h1 : ((s.emitAll a).emitAll (f x)).subscribers bus = snap := hl
    simp only [deliver, hc x (List.mem_cons_self ..), andThen_next, if_pos h1]
    rw [State.emitAll_emitAll, ih (fun y hy => hc y (List.mem_cons_of_mem _ hy))]
    simp

theorem raiseOutside_silent {s : State} (h : Handler) (bus : BusId) (id : SignalId) (p : Payload)
    (hs : s.env = []) (hb : bus ∉ s.delivering) :
    raiseOutside h bus id p s = .next (s.emitAll (s.signals bus id p)) := by
  have key := deliver_silent
    (call := fun x t => match x with
      | .port _ => .next t
      | .ext _ tag => callOutside h bus id p tag t)
    (bus := bus) (snap := s.subscribers bus) (l := s.subscribers bus)
    (s := { s with delivering := bus :: s.delivering })
    (f := signalTo bus id p)
    (fun x _ a => by
      cases x with
      | port k => simp [signalTo]
      | ext k tag => exact callOutside_silent h bus id p tag hs)
    rfl []
  unfold raiseOutside signalRaise
  rw [if_neg hb]
  rw [State.emitAll_nil] at key
  refine (congrArg (fun r => andThen r _) key).trans ?_
  simp [State.signals, State.emitAll]

/-! ## The port's hook -/

/-- The sense condition of a call of the port's hook holds (R222, R224). -/
def State.hookFlag (s : State) (st : PinState) (i : PinIx) : Bool :=
  st != .shorted && s.inputsSense && senseHolds (s.isc i) (bitAt s.port.inp i) (pinLevel st)

/-- The state after the port's hook ran for pin `i` (R222), but for the trace. -/
def State.afterHook (s : State) (st : PinState) (i : PinIx) : State := { s with
  port := { s.port with
    inp := if st != .shorted && s.inputsSense then withBit s.port.inp i (pinLevel st) else s.port.inp
    intflags := if s.hookFlag st i then withBit s.port.intflags i true else s.port.intflags }
  portReq := s.portReq || (s.hookFlag st i && !bitAt s.port.intflags i) }

theorem withBit_self {v : Byte} {i : PinIx} {b : Bool} (h : bitAt v i = b) : withBit v i b = v :=
  bitAt_ext fun k => by
    rw [bitAt_withBit]
    split
    · rename_i e; rw [e, h]
    · rfl

/-- Setting a flag, and what it reports. -/
theorem flagPin_silent (s : State) (i : PinIx) (c : Bool) :
    s.flagPin i c = State.emitAll { s with
      port := { s.port with intflags := if c then withBit s.port.intflags i true else s.port.intflags }
      portReq := s.portReq || (c && !bitAt s.port.intflags i) }
      (if c && !bitAt s.port.intflags i then [.raise s.cfg.portVector] else []) := by
  obtain ⟨cfg, port, pins, subs, del, portReq, ac, acReq, sleep, claims, init, trace, env, inbox⟩ := s
  unfold State.flagPin
  cases c with
  | false => simp
  | true =>
    cases hb : bitAt port.intflags i with
    | false => simp [State.raisePort, State.emit, State.setIntflags, State.emitAll]
    | true => simp [withBit_self hb]

theorem portHook_silent {s : State} (h : Handler) (st : PinState) (i : PinIx) (hs : s.env = [])
    (hd : BusId.portValue ∉ s.delivering) :
    portHook h st i s = .next ((s.afterHook st i).emitAll (s.hookEvents s.port.inp i st)) := by
  unfold portHook State.hookEvents
  by_cases hsh : st = .shorted
  · subst hsh
    simp [State.afterHook, State.hookFlag, State.emit_eq]
  · have hne : (st != .shorted) = true := by simpa using hsh
    rw [if_neg hsh, if_neg hsh]
    cases hin : s.inputsSense
    · simp [State.afterHook, State.hookFlag, hin]
    · simp only [Bool.true_eq_false, if_false]
      by_cases hl : pinLevel st = bitAt s.port.inp i
      · simp only [hl, bne_self_eq_false, Bool.false_eq_true, if_false, andThen_next, List.nil_append]
        rw [flagPin_silent]
        simp only [State.afterHook, State.hookFlag, hne, hin, hl, Bool.true_and, Bool.and_true, if_true,
          withBit_self rfl]
      · have hl' : (pinLevel st != bitAt s.port.inp i) = true := by simpa using hl
        rw [if_pos hl', if_pos hl', raiseOutside_silent (s := s.setIn (withBit s.port.inp i (pinLevel st))) _ _ _ _ hs hd,
          andThen_next, flagPin_silent]
        simp only [State.afterHook, State.hookFlag, hne, hin, Bool.true_and, Bool.and_true, if_true]
        unfold State.emitAll State.setIn
        simp only [List.append_assoc]
        rfl

/-! ## Drives -/

/-- Delivering a pin's change to a list on which the port's hook stands once, with the pin's index. -/
theorem deliver_pin_silent {h : Handler} {i : PinIx} {st : PinState} {snap l : List Subscriber} {s : State}
    (hf : l.filter Subscriber.isPort = [.port i]) (hs : s.env = []) (hd : BusId.portValue ∉ s.delivering)
    (hl : s.subscribers (.pin i) = snap) (a : List Event) :
    deliver (callPinHook h i st) (.pin i) snap l (s.emitAll a) =
      .next ((s.afterHook st i).emitAll (a ++ l.flatMap (s.pinEvents s.port.inp i st))) := by
  induction l generalizing a with
  | nil => cases hf
  | cons x l ih =>
    cases x with
    | port k =>
      simp only [List.filter_cons, Subscriber.isPort, if_true, List.cons.injEq, Subscriber.port.injEq] at hf
      obtain ⟨rfl, hf⟩ := hf
      have h1 : portHook h st k (s.emitAll a) = .next ((s.afterHook st k).emitAll (a ++ s.hookEvents s.port.inp k st)) := by
        rw [portHook_silent (s := s.emitAll a) h st k hs hd, ← State.emitAll_emitAll]
        rfl
      have h2 : ((s.afterHook st k).emitAll (a ++ s.hookEvents s.port.inp k st)).subscribers (.pin k) = snap := hl
      simp only [deliver, callPinHook, h1, andThen_next, if_pos h2]
      rw [deliver_silent (call := callPinHook h k st) (bus := .pin k) (snap := snap) (s := s.afterHook st k)
        (f := s.pinEvents s.port.inp k st)
        (fun x hx b => by
          cases x with
          | port j =>
            have := List.mem_filter.2 (⟨hx, rfl⟩ : Subscriber.port j ∈ l ∧ Subscriber.isPort (.port j) = true)
            rw [hf] at this
            cases this
          | ext j tag => exact callOutside_silent h _ _ _ tag hs) hl]
      simp [State.pinEvents, Subscriber.isPort]
    | ext k tag =>
      simp only [List.filter_cons, Subscriber.isPort, Bool.false_eq_true, if_false] at hf
      have h1 := callOutside_silent (s := s.emitAll a) h (.pin i) .digitalStateChanged (.pinState st) tag hs
      have h2 : ((s.emitAll a).emitAll [.signal (.pin i) .digitalStateChanged (.pinState st) tag]).subscribers (.pin i)
          = snap := hl
      simp only [deliver, callPinHook, h1, andThen_next, if_pos h2]
      rw [State.emitAll_emitAll, ih hf]
      simp [State.pinEvents, Subscriber.isPort, signalTo]

/-- A drive in a silent environment (R124, R222). -/
theorem drive_silent {s : State} (h : Handler) (i : PinIx) (st : PinState)
    (hf : (s.subscribers (.pin i)).filter Subscriber.isPort = [.port i]) (hs : s.env = [])
    (hd : BusId.portValue ∉ s.delivering) (hp : BusId.pin i ∉ s.delivering) :
    drive h i st s = .next
      (State.emitAll (if s.pin i = some st then s else (s.setPin i st).afterHook st i) (s.driveEvents s.port.inp i st)) := by
  unfold drive State.driveEvents
  split
  · simp
  · have key := deliver_pin_silent (h := h) (i := i) (st := st) (snap := s.subscribers (.pin i))
      (l := s.subscribers (.pin i)) (s := { s.setPin i st with delivering := .pin i :: s.delivering })
      hf hs (by simp [hd]) rfl []
    rw [State.emitAll_nil] at key
    unfold signalRaise
    rw [if_neg (by simpa using hp)]
    refine (congrArg (fun r => andThen r _) key).trans ?_
    simp only [andThen_next, State.emitAll_delivering, List.nil_append]
    unfold State.afterHook State.emitAll
    simp only [List.erase_cons_head]
    rfl

/-- A drive in a silent environment in the terms of the claims. -/
theorem drive_drivenTo {s : State} (h : Handler) (i : PinIx) (st : PinState)
    (hf : (s.subscribers (.pin i)).filter Subscriber.isPort = [.port i]) (hs : s.env = [])
    (hd : s.delivering = []) (hq : s.portReq = (s.port.intflags != 0)) :
    ∃ t, drive h i st s = .next t ∧ DrivenTo s i st t := by
  refine ⟨_, drive_silent h i st hf hs (by simp [hd]) (by simp [hd]), ?_⟩
  by_cases hp : s.pin i = some st
  · have hn : s.senses i st = false := by simp [State.senses, hp]
    rw [if_pos hp]
    refine ⟨rfl, rfl, rfl, rfl, fun k => ?_, fun k => ?_, fun k => ?_, hq, rfl⟩
    · show s.pin k = _
      split
      · rename_i e; rw [e, hp]
      · rfl
    · show bitAt s.port.inp k = _
      split
      · rename_i e; simp [State.inAfter, hn, e]
      · rfl
    · show bitAt s.port.intflags k = _
      split
      · rename_i e; simp [State.flagAfter, hn, e]
      · rfl
  · have hn : s.senses i st = (st != .shorted && s.inputsSense) := by simp [State.senses, hp]
    rw [if_neg hp]
    refine ⟨rfl, rfl, rfl, rfl, fun k => State.setPin_pin s i st k, fun k => ?_, fun k => ?_, ?_, rfl⟩
    · show bitAt (if st != .shorted && s.inputsSense then withBit s.port.inp i (pinLevel st) else s.port.inp) k = _
      unfold State.inAfter
      rw [hn]
      cases hc : (st != .shorted && s.inputsSense)
      · simp only [Bool.false_eq_true, if_false]
        split
        · rename_i e; rw [e]
        · rfl
      · simp only [if_true, bitAt_withBit]
    · show bitAt (if (s.setPin i st).hookFlag st i then withBit s.port.intflags i true else s.port.intflags) k = _
      have hfl : (s.setPin i st).hookFlag st i =
          (s.senses i st && senseHolds (s.isc i) (bitAt s.port.inp i) (pinLevel st)) := by
        rw [hn]; rfl
      unfold State.flagAfter
      rw [hfl]
      cases hc : (s.senses i st && senseHolds (s.isc i) (bitAt s.port.inp i) (pinLevel st))
      · simp only [Bool.false_eq_true, if_false, Bool.or_false]
        split
        · rename_i e; rw [e]
        · rfl
      · simp only [if_true, bitAt_withBit, Bool.or_true]
    · show (s.portReq || ((s.setPin i st).hookFlag st i && !bitAt s.port.intflags i)) =
        ((if (s.setPin i st).hookFlag st i then withBit s.port.intflags i true else s.port.intflags) != 0)
      rw [hq]
      cases hc : (s.setPin i st).hookFlag st i
      · simp
      · have h1 : withBit s.port.intflags i true ≠ 0 :=
          ne_zero_of_bit (i := i) (by rw [bitAt_withBit, if_pos rfl])
        have h2 : (withBit s.port.intflags i true != 0) = true := by simpa using h1
        rw [if_pos rfl, h2]
        cases hb : bitAt s.port.intflags i
        · simp
        · have h3 : (s.port.intflags != 0) = true := by simpa using ne_zero_of_bit hb
          rw [h3]; rfl

/-! ## Re-drives -/

/-- As `Redriven`, for the pins of a list. -/
structure RedrivenOn (l : List PinIx) (s t : State) : Prop where
  rest : OnlyPortDiffers s t
  dir : t.port.dir = s.port.dir
  out : t.port.out = s.port.out
  pinctrl : t.port.pinctrl = s.port.pinctrl
  pins : ∀ i, t.pin i = if i ∈ l ∧ s.cfg.hasPin i = true then some (s.drivenState i) else s.pin i
  inp : ∀ i, bitAt t.port.inp i =
    if i ∈ l ∧ s.cfg.hasPin i = true then s.inAfter i (s.drivenState i) else bitAt s.port.inp i
  intflags : ∀ i, bitAt t.port.intflags i =
    if i ∈ l ∧ s.cfg.hasPin i = true then s.flagAfter i (s.drivenState i) else bitAt s.port.intflags i
  portReq : t.portReq = (t.port.intflags != 0)
  trace : t.trace = s.trace ++ s.redriveEvents s.port.inp l

theorem drivenState_congr {s u : State} (h1 : u.port.dir = s.port.dir) (h2 : u.port.out = s.port.out)
    (h3 : u.port.pinctrl = s.port.pinctrl) (i : PinIx) : u.drivenState i = s.drivenState i := by
  unfold State.drivenState State.pullupen State.pinctrl
  rw [h1, h2, h3]

theorem OnlyPortDiffers.subscribers {s t : State} (h : OnlyPortDiffers s t) (b : BusId) :
    t.subscribers b = s.subscribers b := by rw [h]; rfl

theorem OnlyPortDiffers.cfg {s t : State} (h : OnlyPortDiffers s t) : t.cfg = s.cfg := by rw [h]

theorem OnlyPortDiffers.env {s t : State} (h : OnlyPortDiffers s t) : t.env = s.env := by rw [h]

theorem OnlyPortDiffers.delivering {s t : State} (h : OnlyPortDiffers s t) : t.delivering = s.delivering := by rw [h]

/-- What a re-drive of `l` reports depends on the pins of `l` and their flags only. -/
theorem redriveEvents_congr {s u : State} {l : List PinIx} (hcfg : u.cfg = s.cfg) (hsub : ∀ b, u.subscribers b = s.subscribers b)
    (hin : u.inputsSense = s.inputsSense) (hds : ∀ k, u.drivenState k = s.drivenState k) (hisc : ∀ k, u.isc k = s.isc k)
    (hpin : ∀ k ∈ l, u.pin k = s.pin k) (hfl : ∀ k ∈ l, bitAt u.port.intflags k = bitAt s.port.intflags k) (inp : Byte) :
    u.redriveEvents inp l = s.redriveEvents inp l := by
  induction l generalizing inp with
  | nil => rfl
  | cons k l ih =>
    have ih' := fun inp => ih (fun j hj => hpin j (List.mem_cons_of_mem _ hj)) (fun j hj => hfl j (List.mem_cons_of_mem _ hj)) inp
    have h1 : ∀ b id p, u.signals b id p = s.signals b id p := fun b id p => by unfold State.signals; rw [hsub]
    have h2 : ∀ st, u.hookEvents inp k st = s.hookEvents inp k st := fun st => by
      unfold State.hookEvents; rw [hcfg, hin, hisc, h1, hfl k (List.mem_cons_self ..)]
    have h3 : ∀ st, u.driveEvents inp k st = s.driveEvents inp k st := fun st => by
      have : u.pinEvents inp k st = s.pinEvents inp k st := funext fun x => by unfold State.pinEvents; rw [h2]
      unfold State.driveEvents; rw [hpin k (List.mem_cons_self ..), hsub, this]
    have h4 : ∀ st, u.senses k st = s.senses k st := fun st => by
      unfold State.senses; rw [hpin k (List.mem_cons_self ..), hin]
    unfold State.redriveEvents
    rw [hcfg, hds, h3, h4, ih', ih']

theorem OnlyPortDiffers.inputsSense {s t : State} (h : OnlyPortDiffers s t) : t.inputsSense = s.inputsSense := by
  rw [h]; rfl

/-- Driving one pin after another, in a silent environment (R191, R194). -/
theorem redriveList_silent {s : State} (h : Handler) (l : List PinIx) (hn : l.Nodup)
    (hf : ∀ i, s.cfg.hasPin i = true → (s.subscribers (.pin i)).filter Subscriber.isPort = [.port i])
    (hs : s.env = []) (hd : s.delivering = []) (hq : s.portReq = (s.port.intflags != 0)) :
    ∃ t, redriveList h l s = .next t ∧ RedrivenOn l s t := by
  induction l generalizing s with
  | nil => exact ⟨s, rfl, ⟨rfl, rfl, rfl, rfl, by simp, by simp, by simp, hq, by simp [State.redriveEvents]⟩⟩
  | cons i l ih =>
    obtain ⟨hi, hn⟩ := List.nodup_cons.1 hn
    by_cases hp : s.cfg.hasPin i = true
    · obtain ⟨u, hu, du⟩ := drive_drivenTo h i (s.drivenState i) (hf i hp) hs hd hq
      have hcfg := du.rest.cfg
      obtain ⟨t, ht, dt⟩ := ih (s := u) hn
        (fun k hk => by rw [du.rest.subscribers]; exact hf k (by rwa [hcfg] at hk))
        (by rw [du.rest.env, hs]) (by rw [du.rest.delivering, hd]) du.portReq
      have hds : ∀ k, u.drivenState k = s.drivenState k := drivenState_congr du.dir du.out du.pinctrl
      have hisc : ∀ k, u.isc k = s.isc k := fun k => by simp only [State.isc, State.pinctrl, du.pinctrl]
      have hsen : ∀ k, k ≠ i → ∀ st, u.senses k st = s.senses k st := fun k hk st => by
        simp only [State.senses, du.pins k, if_neg hk, du.rest.inputsSense]
      refine ⟨t, by simp only [redriveList, if_pos hp, hu, andThen_next, ht], du.rest.trans dt.rest,
        dt.dir.trans du.dir, dt.out.trans du.out, dt.pinctrl.trans du.pinctrl, fun k => ?_, fun k => ?_, fun k => ?_,
        dt.portReq, ?_⟩
      · rw [dt.pins k, hds, hcfg, du.pins k]
        by_cases e : k = i
        · subst e; simp [hi, hp]
        · simp [e]
      · rw [dt.inp k, hcfg, du.inp k]
        by_cases e : k = i
        · subst e; simp [hi, hp]
        · simp only [List.mem_cons, e, false_or, if_false]
          simp only [State.inAfter, hsen k e, hds, du.inp k, if_neg e]
      · rw [dt.intflags k, hcfg, du.intflags k]
        by_cases e : k = i
        · subst e; simp [hi, hp]
        · simp only [List.mem_cons, e, false_or, if_false]
          simp only [State.flagAfter, hsen k e, hds, hisc, du.inp k, du.intflags k, if_neg e]
      · have hne : ∀ k ∈ l, k ≠ i := fun k hk e => hi (e ▸ hk)
        have hinp : u.port.inp =
            if s.senses i (s.drivenState i) then withBit s.port.inp i (pinLevel (s.drivenState i)) else s.port.inp :=
          bitAt_ext fun k => by
            rw [du.inp k]
            unfold State.inAfter
            cases hc : s.senses i (s.drivenState i)
            · simp only [Bool.false_eq_true, if_false]
              split
              · rename_i e; rw [e]
              · rfl
            · simp only [if_true, bitAt_withBit]
        rw [dt.trace, du.trace, redriveEvents_congr hcfg du.rest.subscribers du.rest.inputsSense hds hisc
          (fun k hk => by rw [du.pins k, if_neg (hne k hk)]) (fun k hk => by rw [du.intflags k, if_neg (hne k hk)]), hinp]
        simp only [State.redriveEvents, hp, if_true, List.append_assoc]
    · obtain ⟨t, ht, dt⟩ := ih hn hf hs hd hq
      have key : ∀ k, (k ∈ i :: l ∧ s.cfg.hasPin k = true) ↔ (k ∈ l ∧ s.cfg.hasPin k = true) := fun k => by
        constructor
        · rintro ⟨hk, hk'⟩
          rcases List.mem_cons.1 hk with rfl | hk
          · exact absurd hk' hp
          · exact ⟨hk, hk'⟩
        · rintro ⟨hk, hk'⟩; exact ⟨List.mem_cons_of_mem _ hk, hk'⟩
      refine ⟨t, by simp only [redriveList, if_neg hp, andThen_next, ht], dt.rest, dt.dir, dt.out, dt.pinctrl,
        fun k => ?_, fun k => ?_, fun k => ?_, dt.portReq, by rw [dt.trace]; simp only [State.redriveEvents, if_neg hp]⟩
      · rw [dt.pins k]; simp only [key]
      · rw [dt.inp k]; simp only [key]
      · rw [dt.intflags k]; simp only [key]

/-- `redriveAll()` in a silent environment (R191, R195). -/
theorem redriveAll_silent {s : State} (h : Handler)
    (hf : ∀ i, s.cfg.hasPin i = true → (s.subscribers (.pin i)).filter Subscriber.isPort = [.port i])
    (hs : s.env = []) (hd : s.delivering = []) (hq : s.portReq = (s.port.intflags != 0)) :
    ∃ t, redriveAll h s = .next t ∧ Redriven s t := by
  unfold redriveAll
  cases ho : s.outputsDrive
  · exact ⟨s, by simp, rfl, rfl, rfl, rfl, by simp [State.redrives, ho], by simp [State.redrives, ho],
      by simp [State.redrives, ho], hq, by simp [ho]⟩
  · obtain ⟨t, ht, d⟩ := redriveList_silent h pinOrder pinOrder_nodup hf hs hd hq
    exact ⟨t, by simpa using ht, d.rest, d.dir, d.out, d.pinctrl, fun i => by simpa [State.redrives, ho] using d.pins i,
      fun i => by simpa [State.redrives, ho] using d.inp i, fun i => by simpa [State.redrives, ho] using d.intflags i,
      d.portReq, by simpa [ho] using d.trace⟩

/-! ## The comparator's evaluation -/

/-- `acEval()` of an active comparator in a silent environment (R255). -/
theorem acEval_silent {s : State} (h : Handler) {vp vn : Volt} (hs : s.env = []) (hd : BusId.acOut ∉ s.delivering)
    (ha : s.acActive = true) (hp : s.acInput .pos = some vp) (hn : s.acInput .neg = some vn)
    (hq : s.acReq = s.acReqWanted) : ∃ t, acEval h s = .next t ∧ Evaluated s vp vn t := by
  rw [acEval_active ha hp hn]
  unfold publishOutput
  dsimp only
  by_cases ho : s.outAfter vp vn = (s.setRaw (s.rawAfter vp vn)).ac.out
  · refine ⟨_, by rw [if_pos ho], ?_⟩
    rw [State.setRaw_ac_out] at ho
    have hc : s.cmpAfter vp vn = s.ac.cmp := by simp [State.cmpAfter, ho]
    have : (s.ac.cmp && s.acIntEnable) = s.acReq := hq.symm
    unfold Evaluated State.evalEvents
    rw [hc, if_pos ho, List.append_nil, this, ho]
    rfl
  · rw [if_neg ho, raiseOutside_silent (s := (s.setRaw (s.rawAfter vp vn)).setAcOut (s.outAfter vp vn)) _ _ _ _ hs hd]
    rw [State.setRaw_ac_out] at ho ⊢
    refine ⟨_, by rw [andThen_next], ?_⟩
    have hne : (s.outAfter vp vn != s.ac.out) = true := by simpa using ho
    have him : State.acIntmode (State.emitAll ((s.setRaw (s.rawAfter vp vn)).setAcOut (s.outAfter vp vn))
        (State.signals ((s.setRaw (s.rawAfter vp vn)).setAcOut (s.outAfter vp vn)) .acOut .acOutput
          (.acBit (s.outAfter vp vn)))) = s.acIntmode := rfl
    have hsig : State.signals ((s.setRaw (s.rawAfter vp vn)).setAcOut (s.outAfter vp vn)) .acOut .acOutput
        (.acBit (s.outAfter vp vn)) = s.signals .acOut .acOutput (.acBit (s.outAfter vp vn)) := rfl
    rw [him, hsig]
    unfold Evaluated State.evalEvents
    rw [if_neg ho]
    by_cases hqu : qualifies s.acIntmode s.ac.out (s.outAfter vp vn) = true
    · have hc : s.cmpAfter vp vn = true := by simp [State.cmpAfter, hne, hqu]
      rw [if_pos hqu, State.updateAcReq_eq, hc, hqu]
      have hw : State.acReqWanted (State.setCmp (State.emitAll ((s.setRaw (s.rawAfter vp vn)).setAcOut (s.outAfter vp vn))
          (s.signals .acOut .acOutput (.acBit (s.outAfter vp vn)))) true) = s.acIntEnable := by
        simp [State.acReqWanted, State.acIntEnable, State.setCmp]
      rw [hw]
      have hno : (!s.acIntEnable && s.acReq) = false := by
        rw [hq]; unfold State.acReqWanted; cases s.acIntEnable <;> simp
      simp only [State.setCmp, State.setAcOut, State.setRaw, State.emitAll, hno, Bool.false_eq_true, if_false,
        Bool.true_and, List.append_assoc]
    · have hc : s.cmpAfter vp vn = s.ac.cmp := by simp [State.cmpAfter, hqu]
      have : (s.ac.cmp && s.acIntEnable) = s.acReq := hq.symm
      have hqf : qualifies s.acIntmode s.ac.out (s.outAfter vp vn) = false := by simpa using hqu
      rw [if_neg hqu, hc, this, hqf]
      simp [State.emitAll, State.setAcOut, State.setRaw]

end Sys2Proof.Machine
end

