-- ==== Sys2Proof/Tests/Slice0.lean ====
section
/-! SUPPORT. Tests: the checks of WellFormed refuse ill-formed terms; every row of the opcode table decodes from a word
written out from its encoding; single steps give what the vectors of 95_test_vectors.md give; and for every obligation
with hypotheses, a state and operands that meet them together. -/

namespace Sys2Proof.Tests

open Sys2Proof Sys2Proof.Machine

/-! ## WellFormed -/

/-- Offsets just outside each row of rd port rows are refused, and the row's own ends are not. -/
theorem test_wellFormed_rd_port_rows :
    (Instr.rdPortReserved0A 0x09).wellFormed = false ∧
    (Instr.rdPortReserved0A 0x0C).wellFormed = false ∧
    (Instr.rdPortReserved0A 0x0A).wellFormed = true ∧
    (Instr.rdPortReserved0A 0x0B).wellFormed = true ∧
    (Instr.rdPortReserved0C 0x0B).wellFormed = false ∧
    (Instr.rdPortReserved0C 0x10).wellFormed = false ∧
    (Instr.rdPortReserved0C 0x0C).wellFormed = true ∧
    (Instr.rdPortReserved0C 0x0F).wellFormed = true ∧
    (Instr.rdPortReserved18 0x17).wellFormed = false ∧
    (Instr.rdPortReserved18 0x20).wellFormed = false ∧
    (Instr.rdPortReserved18 0x18).wellFormed = true ∧
    (Instr.rdPortReserved18 0x1F).wellFormed = true ∧
    (Instr.rdPortUnclaimed20 0x1F).wellFormed = false ∧
    (Instr.rdPortUnclaimed20 0x40).wellFormed = false ∧
    (Instr.rdPortUnclaimed20 0x20).wellFormed = true ∧
    (Instr.rdPortUnclaimed20 0x3F).wellFormed = true ∧
    (Instr.rdPortUnclaimed40 0x3F).wellFormed = false ∧
    (Instr.rdPortUnclaimed40 0x80).wellFormed = false ∧
    (Instr.rdPortUnclaimed40 0x40).wellFormed = true ∧
    (Instr.rdPortUnclaimed40 0x7F).wellFormed = true ∧
    (Instr.rdPortUnclaimed80 0x7F).wellFormed = false ∧
    (Instr.rdPortUnclaimed80 0x80).wellFormed = true ∧
    (Instr.rdPortUnclaimed80 0xFF).wellFormed = true := by
  decide

/-- Offsets just outside each row of wr port rows are refused, and the row's own ends are not. -/
theorem test_wellFormed_wr_port_rows :
    (Instr.wrPortReserved0A 0x09 0).wellFormed = false ∧
    (Instr.wrPortReserved0A 0x0C 0).wellFormed = false ∧
    (Instr.wrPortReserved0A 0x0A 0).wellFormed = true ∧
    (Instr.wrPortReserved0A 0x0B 0).wellFormed = true ∧
    (Instr.wrPortReserved0C 0x0B 0).wellFormed = false ∧
    (Instr.wrPortReserved0C 0x10 0).wellFormed = false ∧
    (Instr.wrPortReserved0C 0x0C 0).wellFormed = true ∧
    (Instr.wrPortReserved0C 0x0F 0).wellFormed = true ∧
    (Instr.wrPortReserved18 0x17 0).wellFormed = false ∧
    (Instr.wrPortReserved18 0x20 0).wellFormed = false ∧
    (Instr.wrPortReserved18 0x18 0).wellFormed = true ∧
    (Instr.wrPortReserved18 0x1F 0).wellFormed = true ∧
    (Instr.wrPortUnclaimed20 0x1F 0).wellFormed = false ∧
    (Instr.wrPortUnclaimed20 0x40 0).wellFormed = false ∧
    (Instr.wrPortUnclaimed20 0x20 0).wellFormed = true ∧
    (Instr.wrPortUnclaimed20 0x3F 0).wellFormed = true ∧
    (Instr.wrPortUnclaimed40 0x3F 0).wellFormed = false ∧
    (Instr.wrPortUnclaimed40 0x80 0).wellFormed = false ∧
    (Instr.wrPortUnclaimed40 0x40 0).wellFormed = true ∧
    (Instr.wrPortUnclaimed40 0x7F 0).wellFormed = true ∧
    (Instr.wrPortUnclaimed80 0x7F 0).wellFormed = false ∧
    (Instr.wrPortUnclaimed80 0x80 0).wellFormed = true ∧
    (Instr.wrPortUnclaimed80 0xFF 0).wellFormed = true := by
  decide

/-- Offsets just outside each row of rd vport rows are refused, and the row's own ends are not. -/
theorem test_wellFormed_rd_vport_rows :
    (Instr.rdVportUnclaimed04 0x03).wellFormed = false ∧
    (Instr.rdVportUnclaimed04 0x08).wellFormed = false ∧
    (Instr.rdVportUnclaimed04 0x04).wellFormed = true ∧
    (Instr.rdVportUnclaimed04 0x07).wellFormed = true ∧
    (Instr.rdVportUnclaimed08 0x07).wellFormed = false ∧
    (Instr.rdVportUnclaimed08 0x10).wellFormed = false ∧
    (Instr.rdVportUnclaimed08 0x08).wellFormed = true ∧
    (Instr.rdVportUnclaimed08 0x0F).wellFormed = true ∧
    (Instr.rdVportUnclaimed10 0x0F).wellFormed = false ∧
    (Instr.rdVportUnclaimed10 0x20).wellFormed = false ∧
    (Instr.rdVportUnclaimed10 0x10).wellFormed = true ∧
    (Instr.rdVportUnclaimed10 0x1F).wellFormed = true ∧
    (Instr.rdVportUnclaimed20 0x1F).wellFormed = false ∧
    (Instr.rdVportUnclaimed20 0x40).wellFormed = false ∧
    (Instr.rdVportUnclaimed20 0x20).wellFormed = true ∧
    (Instr.rdVportUnclaimed20 0x3F).wellFormed = true ∧
    (Instr.rdVportUnclaimed40 0x3F).wellFormed = false ∧
    (Instr.rdVportUnclaimed40 0x80).wellFormed = false ∧
    (Instr.rdVportUnclaimed40 0x40).wellFormed = true ∧
    (Instr.rdVportUnclaimed40 0x7F).wellFormed = true ∧
    (Instr.rdVportUnclaimed80 0x7F).wellFormed = false ∧
    (Instr.rdVportUnclaimed80 0x80).wellFormed = true ∧
    (Instr.rdVportUnclaimed80 0xFF).wellFormed = true := by
  decide

/-- Offsets just outside each row of wr vport rows are refused, and the row's own ends are not. -/
theorem test_wellFormed_wr_vport_rows :
    (Instr.wrVportUnclaimed04 0x03 0).wellFormed = false ∧
    (Instr.wrVportUnclaimed04 0x08 0).wellFormed = false ∧
    (Instr.wrVportUnclaimed04 0x04 0).wellFormed = true ∧
    (Instr.wrVportUnclaimed04 0x07 0).wellFormed = true ∧
    (Instr.wrVportUnclaimed08 0x07 0).wellFormed = false ∧
    (Instr.wrVportUnclaimed08 0x10 0).wellFormed = false ∧
    (Instr.wrVportUnclaimed08 0x08 0).wellFormed = true ∧
    (Instr.wrVportUnclaimed08 0x0F 0).wellFormed = true ∧
    (Instr.wrVportUnclaimed10 0x0F 0).wellFormed = false ∧
    (Instr.wrVportUnclaimed10 0x20 0).wellFormed = false ∧
    (Instr.wrVportUnclaimed10 0x10 0).wellFormed = true ∧
    (Instr.wrVportUnclaimed10 0x1F 0).wellFormed = true ∧
    (Instr.wrVportUnclaimed20 0x1F 0).wellFormed = false ∧
    (Instr.wrVportUnclaimed20 0x40 0).wellFormed = false ∧
    (Instr.wrVportUnclaimed20 0x20 0).wellFormed = true ∧
    (Instr.wrVportUnclaimed20 0x3F 0).wellFormed = true ∧
    (Instr.wrVportUnclaimed40 0x3F 0).wellFormed = false ∧
    (Instr.wrVportUnclaimed40 0x80 0).wellFormed = false ∧
    (Instr.wrVportUnclaimed40 0x40 0).wellFormed = true ∧
    (Instr.wrVportUnclaimed40 0x7F 0).wellFormed = true ∧
    (Instr.wrVportUnclaimed80 0x7F 0).wellFormed = false ∧
    (Instr.wrVportUnclaimed80 0x80 0).wellFormed = true ∧
    (Instr.wrVportUnclaimed80 0xFF 0).wellFormed = true := by
  decide

/-- Offsets just outside each row of rd ac rows are refused, and the row's own ends are not. -/
theorem test_wellFormed_rd_ac_rows :
    (Instr.rdAcReserved04 0x03).wellFormed = false ∧
    (Instr.rdAcReserved04 0x06).wellFormed = false ∧
    (Instr.rdAcReserved04 0x04).wellFormed = true ∧
    (Instr.rdAcReserved04 0x05).wellFormed = true ∧
    (Instr.rdAcUnclaimed08 0x07).wellFormed = false ∧
    (Instr.rdAcUnclaimed08 0x10).wellFormed = false ∧
    (Instr.rdAcUnclaimed08 0x08).wellFormed = true ∧
    (Instr.rdAcUnclaimed08 0x0F).wellFormed = true ∧
    (Instr.rdAcUnclaimed10 0x0F).wellFormed = false ∧
    (Instr.rdAcUnclaimed10 0x20).wellFormed = false ∧
    (Instr.rdAcUnclaimed10 0x10).wellFormed = true ∧
    (Instr.rdAcUnclaimed10 0x1F).wellFormed = true ∧
    (Instr.rdAcUnclaimed20 0x1F).wellFormed = false ∧
    (Instr.rdAcUnclaimed20 0x40).wellFormed = false ∧
    (Instr.rdAcUnclaimed20 0x20).wellFormed = true ∧
    (Instr.rdAcUnclaimed20 0x3F).wellFormed = true ∧
    (Instr.rdAcUnclaimed40 0x3F).wellFormed = false ∧
    (Instr.rdAcUnclaimed40 0x80).wellFormed = false ∧
    (Instr.rdAcUnclaimed40 0x40).wellFormed = true ∧
    (Instr.rdAcUnclaimed40 0x7F).wellFormed = true ∧
    (Instr.rdAcUnclaimed80 0x7F).wellFormed = false ∧
    (Instr.rdAcUnclaimed80 0x80).wellFormed = true ∧
    (Instr.rdAcUnclaimed80 0xFF).wellFormed = true := by
  decide

/-- Offsets just outside each row of wr ac rows are refused, and the row's own ends are not. -/
theorem test_wellFormed_wr_ac_rows :
    (Instr.wrAcReserved04 0x03 0).wellFormed = false ∧
    (Instr.wrAcReserved04 0x06 0).wellFormed = false ∧
    (Instr.wrAcReserved04 0x04 0).wellFormed = true ∧
    (Instr.wrAcReserved04 0x05 0).wellFormed = true ∧
    (Instr.wrAcUnclaimed08 0x07 0).wellFormed = false ∧
    (Instr.wrAcUnclaimed08 0x10 0).wellFormed = false ∧
    (Instr.wrAcUnclaimed08 0x08 0).wellFormed = true ∧
    (Instr.wrAcUnclaimed08 0x0F 0).wellFormed = true ∧
    (Instr.wrAcUnclaimed10 0x0F 0).wellFormed = false ∧
    (Instr.wrAcUnclaimed10 0x20 0).wellFormed = false ∧
    (Instr.wrAcUnclaimed10 0x10 0).wellFormed = true ∧
    (Instr.wrAcUnclaimed10 0x1F 0).wellFormed = true ∧
    (Instr.wrAcUnclaimed20 0x1F 0).wellFormed = false ∧
    (Instr.wrAcUnclaimed20 0x40 0).wellFormed = false ∧
    (Instr.wrAcUnclaimed20 0x20 0).wellFormed = true ∧
    (Instr.wrAcUnclaimed20 0x3F 0).wellFormed = true ∧
    (Instr.wrAcUnclaimed40 0x3F 0).wellFormed = false ∧
    (Instr.wrAcUnclaimed40 0x80 0).wellFormed = false ∧
    (Instr.wrAcUnclaimed40 0x40 0).wellFormed = true ∧
    (Instr.wrAcUnclaimed40 0x7F 0).wellFormed = true ∧
    (Instr.wrAcUnclaimed80 0x7F 0).wellFormed = false ∧
    (Instr.wrAcUnclaimed80 0x80 0).wellFormed = true ∧
    (Instr.wrAcUnclaimed80 0xFF 0).wellFormed = true := by
  decide

/-- Offsets just outside each row of event rows are refused, and the row's own ends are not. -/
theorem test_wellFormed_event_rows :
    (Instr.eventReserved0A 0x09 0).wellFormed = false ∧
    (Instr.eventReserved0A 0x0C 0).wellFormed = false ∧
    (Instr.eventReserved0A 0x0A 0).wellFormed = true ∧
    (Instr.eventReserved0A 0x0B 0).wellFormed = true ∧
    (Instr.eventReserved0C 0x0B 0).wellFormed = false ∧
    (Instr.eventReserved0C 0x10 0).wellFormed = false ∧
    (Instr.eventReserved0C 0x0C 0).wellFormed = true ∧
    (Instr.eventReserved0C 0x0F 0).wellFormed = true ∧
    (Instr.eventReserved10 0x0F 0).wellFormed = false ∧
    (Instr.eventReserved10 0x20 0).wellFormed = false ∧
    (Instr.eventReserved10 0x10 0).wellFormed = true ∧
    (Instr.eventReserved10 0x1F 0).wellFormed = true ∧
    (Instr.eventReserved20 0x1F 0).wellFormed = false ∧
    (Instr.eventReserved20 0x40 0).wellFormed = false ∧
    (Instr.eventReserved20 0x20 0).wellFormed = true ∧
    (Instr.eventReserved20 0x3F 0).wellFormed = true ∧
    (Instr.eventReserved40 0x3F 0).wellFormed = false ∧
    (Instr.eventReserved40 0x80 0).wellFormed = false ∧
    (Instr.eventReserved40 0x40 0).wellFormed = true ∧
    (Instr.eventReserved40 0x7F 0).wellFormed = true ∧
    (Instr.eventReserved80 0x7F 0).wellFormed = false ∧
    (Instr.eventReserved80 0x80 0).wellFormed = true ∧
    (Instr.eventReserved80 0xFF 0).wellFormed = true := by
  decide

/-- PINSET's state 7 row holds only state code 7. -/
theorem test_wellFormed_pinsetState7 :
    (Instr.pinsetState7 0x06).wellFormed = false ∧ (Instr.pinsetState7 0xFF).wellFormed = true := by
  decide

/-- A non-default layout and a negative hysteresis width are refused (R8). -/
theorem test_config_checks :
    { Config.conventional with pinctrlOffset := 0x0A }.defaultLayout = false ∧
    { Config.conventional with portSpan := 0x40 }.defaultLayout = false ∧
    { Config.conventional with vportSpan := 8 }.defaultLayout = false ∧
    { Config.conventional with acSpan := 16 }.defaultLayout = false ∧
    Config.conventional.defaultLayout = true ∧
    HysWidth.of (-1) = none ∧ HysWidth.of (25 / 1000) = some Config.conventional.acHys2 := by
  decide +kernel

/-- A collision of addresses, a missing device pin and a hook that stands twice on a list fail the initialization
(R345). -/
theorem test_initOk_checks :
    Config.conventional.initOk = true ∧
    { Config.conventional with vportBase := 0x41F }.initOk = false ∧
    { Config.conventional with foreignRanges := [(0x600, 0x81)] }.initOk = false ∧
    { Config.conventional with devicePins := 0xF7 }.initOk = false ∧
    { Config.conventional with portValueSubscribers := [⟨1, 0⟩, ⟨1, 1⟩] }.initOk = false ∧
    { Config.conventional with pinSubscribers := Vector.replicate 8 ⟨[⟨1, 0⟩], [⟨1, 1⟩]⟩ }.initOk = false := by
  decide

/-! ## Decoding: a word of every row, written out from the row's match and mask -/

theorem test_decode_rd_port :
    decode 0x000A5 0 = .rdPortDir ∧
    decode 0x001A5 0 = .rdPortDirset ∧
    decode 0x002A5 0 = .rdPortDirclr ∧
    decode 0x003A5 0 = .rdPortDirtgl ∧
    decode 0x004A5 0 = .rdPortOut ∧
    decode 0x005A5 0 = .rdPortOutset ∧
    decode 0x006A5 0 = .rdPortOutclr ∧
    decode 0x007A5 0 = .rdPortOuttgl ∧
    decode 0x008A5 0 = .rdPortIn ∧
    decode 0x009A5 0 = .rdPortIntflags ∧
    decode 0x010A5 0 = .rdPortPin0ctrl ∧
    decode 0x011A5 0 = .rdPortPin1ctrl ∧
    decode 0x012A5 0 = .rdPortPin2ctrl ∧
    decode 0x013A5 0 = .rdPortPin3ctrl ∧
    decode 0x014A5 0 = .rdPortPin4ctrl ∧
    decode 0x015A5 0 = .rdPortPin5ctrl ∧
    decode 0x016A5 0 = .rdPortPin6ctrl ∧
    decode 0x017A5 0 = .rdPortPin7ctrl ∧
    decode 0x00BA5 0 = .rdPortReserved0A 0x0B ∧
    decode 0x00FA5 0 = .rdPortReserved0C 0x0F ∧
    decode 0x01FA5 0 = .rdPortReserved18 0x1F ∧
    decode 0x03FA5 0 = .rdPortUnclaimed20 0x3F ∧
    decode 0x07FA5 0 = .rdPortUnclaimed40 0x7F ∧
    decode 0x0FFA5 0 = .rdPortUnclaimed80 0xFF := by
  decide

theorem test_decode_wr_port :
    decode 0x200A5 0 = .wrPortDir 0xA5 ∧
    decode 0x201A5 0 = .wrPortDirset 0xA5 ∧
    decode 0x202A5 0 = .wrPortDirclr 0xA5 ∧
    decode 0x203A5 0 = .wrPortDirtgl 0xA5 ∧
    decode 0x204A5 0 = .wrPortOut 0xA5 ∧
    decode 0x205A5 0 = .wrPortOutset 0xA5 ∧
    decode 0x206A5 0 = .wrPortOutclr 0xA5 ∧
    decode 0x207A5 0 = .wrPortOuttgl 0xA5 ∧
    decode 0x208A5 0 = .wrPortIn 0xA5 ∧
    decode 0x209A5 0 = .wrPortIntflags 0xA5 ∧
    decode 0x210A5 0 = .wrPortPin0ctrl 0xA5 ∧
    decode 0x211A5 0 = .wrPortPin1ctrl 0xA5 ∧
    decode 0x212A5 0 = .wrPortPin2ctrl 0xA5 ∧
    decode 0x213A5 0 = .wrPortPin3ctrl 0xA5 ∧
    decode 0x214A5 0 = .wrPortPin4ctrl 0xA5 ∧
    decode 0x215A5 0 = .wrPortPin5ctrl 0xA5 ∧
    decode 0x216A5 0 = .wrPortPin6ctrl 0xA5 ∧
    decode 0x217A5 0 = .wrPortPin7ctrl 0xA5 ∧
    decode 0x20BA5 0 = .wrPortReserved0A 0x0B 0xA5 ∧
    decode 0x20FA5 0 = .wrPortReserved0C 0x0F 0xA5 ∧
    decode 0x21FA5 0 = .wrPortReserved18 0x1F 0xA5 ∧
    decode 0x23FA5 0 = .wrPortUnclaimed20 0x3F 0xA5 ∧
    decode 0x27FA5 0 = .wrPortUnclaimed40 0x7F 0xA5 ∧
    decode 0x2FFA5 0 = .wrPortUnclaimed80 0xFF 0xA5 := by
  decide

theorem test_decode_rd_vport :
    decode 0x400A5 0 = .rdVportDir ∧
    decode 0x401A5 0 = .rdVportOut ∧
    decode 0x402A5 0 = .rdVportIn ∧
    decode 0x403A5 0 = .rdVportIntflags ∧
    decode 0x407A5 0 = .rdVportUnclaimed04 0x07 ∧
    decode 0x40FA5 0 = .rdVportUnclaimed08 0x0F ∧
    decode 0x41FA5 0 = .rdVportUnclaimed10 0x1F ∧
    decode 0x43FA5 0 = .rdVportUnclaimed20 0x3F ∧
    decode 0x47FA5 0 = .rdVportUnclaimed40 0x7F ∧
    decode 0x4FFA5 0 = .rdVportUnclaimed80 0xFF := by
  decide

theorem test_decode_wr_vport :
    decode 0x600A5 0 = .wrVportDir 0xA5 ∧
    decode 0x601A5 0 = .wrVportOut 0xA5 ∧
    decode 0x602A5 0 = .wrVportIn 0xA5 ∧
    decode 0x603A5 0 = .wrVportIntflags 0xA5 ∧
    decode 0x607A5 0 = .wrVportUnclaimed04 0x07 0xA5 ∧
    decode 0x60FA5 0 = .wrVportUnclaimed08 0x0F 0xA5 ∧
    decode 0x61FA5 0 = .wrVportUnclaimed10 0x1F 0xA5 ∧
    decode 0x63FA5 0 = .wrVportUnclaimed20 0x3F 0xA5 ∧
    decode 0x67FA5 0 = .wrVportUnclaimed40 0x7F 0xA5 ∧
    decode 0x6FFA5 0 = .wrVportUnclaimed80 0xFF 0xA5 := by
  decide

theorem test_decode_rd_ac :
    decode 0x800A5 0 = .rdAcCtrla ∧
    decode 0x802A5 0 = .rdAcMuxctrla ∧
    decode 0x806A5 0 = .rdAcIntctrl ∧
    decode 0x807A5 0 = .rdAcStatus ∧
    decode 0x801A5 0 = .rdAcReserved01 ∧
    decode 0x803A5 0 = .rdAcReserved03 ∧
    decode 0x805A5 0 = .rdAcReserved04 0x05 ∧
    decode 0x80FA5 0 = .rdAcUnclaimed08 0x0F ∧
    decode 0x81FA5 0 = .rdAcUnclaimed10 0x1F ∧
    decode 0x83FA5 0 = .rdAcUnclaimed20 0x3F ∧
    decode 0x87FA5 0 = .rdAcUnclaimed40 0x7F ∧
    decode 0x8FFA5 0 = .rdAcUnclaimed80 0xFF := by
  decide

theorem test_decode_wr_ac :
    decode 0xA00A5 0 = .wrAcCtrla 0xA5 ∧
    decode 0xA02A5 0 = .wrAcMuxctrla 0xA5 ∧
    decode 0xA06A5 0 = .wrAcIntctrl 0xA5 ∧
    decode 0xA07A5 0 = .wrAcStatus 0xA5 ∧
    decode 0xA01A5 0 = .wrAcReserved01 0xA5 ∧
    decode 0xA03A5 0 = .wrAcReserved03 0xA5 ∧
    decode 0xA05A5 0 = .wrAcReserved04 0x05 0xA5 ∧
    decode 0xA0FA5 0 = .wrAcUnclaimed08 0x0F 0xA5 ∧
    decode 0xA1FA5 0 = .wrAcUnclaimed10 0x1F 0xA5 ∧
    decode 0xA3FA5 0 = .wrAcUnclaimed20 0x3F 0xA5 ∧
    decode 0xA7FA5 0 = .wrAcUnclaimed40 0x7F 0xA5 ∧
    decode 0xAFFA5 0 = .wrAcUnclaimed80 0xFF 0xA5 := by
  decide

theorem test_decode_event :
    decode 0xC00D8 0 = .pinsetLow 5 ∧
    decode 0xC00D9 0 = .pinsetHigh 5 ∧
    decode 0xC00DA 0 = .pinsetFloating 5 ∧
    decode 0xC00DB 0 = .pinsetPullUp 5 ∧
    decode 0xC00DC 0 = .pinsetPullDown 5 ∧
    decode 0xC00DD 0 = .pinsetAnalog 5 ∧
    decode 0xC00DE 0 = .pinsetShorted 5 ∧
    decode 0xC0057 0 = .pinsetState7 0x57 ∧
    decode 0xC01FF 0 = .reset ∧
    decode 0xC02FF 0 = .init ∧
    decode 0xC03FA 0 = .sleep 2 ∧
    decode 0xC04FF 0 = .wake ∧
    decode 0xC07FF 0 = .getAcOut ∧
    decode 0xC08FF 0 = .getAcRef ∧
    decode 0xC09FF 0 = .getPortSignal := by
  decide

theorem test_decode_operand :
    decode 0xC05A5 (3 / 5) = .achan 0xA5 (3 / 5) ∧
    decode 0xC06FF (1 / 2) = .aref (1 / 2) := by
  exact ⟨rfl, rfl⟩

theorem test_decode_event_reserved :
    decode 0xC0BA5 0 = .eventReserved0A 0x0B 0xA5 ∧
    decode 0xC0FA5 0 = .eventReserved0C 0x0F 0xA5 ∧
    decode 0xC1FA5 0 = .eventReserved10 0x1F 0xA5 ∧
    decode 0xC3FA5 0 = .eventReserved20 0x3F 0xA5 ∧
    decode 0xC7FA5 0 = .eventReserved40 0x7F 0xA5 ∧
    decode 0xCFFA5 0 = .eventReserved80 0xFF 0xA5 ∧
    decode 0xE1234 0 = .eventWrite 0x12 0x34 ∧
    decode 0xB1234 0 = .zReserved 2 true 0x12 0x34 := by
  decide

/-- `decodeTableWord` numbers the bits as the opcode table does, and refuses a word that has a bit above bit 19. -/
theorem test_decodeTableWord :
    decodeTableWord 24 0xC0041 = some (.pinsetHigh 4) ∧ decodeTableWord 24 0x213A5 = some (.wrPortPin3ctrl 0xA5) ∧
    decodeTableWord 24 0x100000 = none := by
  decide
/-! ## Single steps

Expected values are those of 95_test_vectors.md, whose vector each test names. -/

/-- One step on the word `w` with operand `u`. -/
def run (s : State) (w : Tw20) (u : Volt := 0) : Res := step { s with inbox := [.word w u] }

/-- The step answers a next state for which `p` holds. -/
def ok (r : Res) (p : State → Bool) : Bool :=
  match r with
  | .next s => p s
  | _ => false

/-- The fault's code and whether the step faults. -/
def faults (r : Res) (code : Nat) : Bool :=
  match r with
  | .fault f => f.code == some code
  | _ => false

/-- The step is refused with the code of R321. -/
def refusedWith (r : Res) (code : Nat) : Bool :=
  match r with
  | .refused q => q.code == some code
  | _ => false

/-- The reset state with these registers, the pins of DIR driven and IN following them, and nothing at the boundary. -/
def portAt (c : Config) (dir out flags : Byte) : State := { State.resetWith c with
  port := { PortRegs.reset with dir := dir, out := out, inp := dir &&& out, intflags := flags }
  portReq := flags != 0
  pins := Vector.ofFn fun i =>
    if c.hasPin i then some (if bitAt dir i then (if bitAt out i then .high else .low) else .floating) else none }

/-- The start of L2.9 row 2: comparator enabled, 0.6 V on source 0, reference 0.5 V, output 1 and flagged. -/
def acOn : State := { State.reset with
  ac := { AcState.reset with ctrla := 0x01, ref := some (1 / 2), chan := [(0, 3 / 5)], raw := true, out := true, cmp := true } }

/-- The same inputs delivered to a disabled comparator. -/
def acOff : State := { State.reset with ac := { AcState.reset with ref := some (1 / 2), chan := [(0, 3 / 5)] } }

def half : Config := { Config.conventional with pinMask := 0x0F }

theorem test_dir : ok (run State.reset 0x2003C) (fun t => t.port.dir == 0x3C && t.port.inp == 0 &&
    t.pin 2 == some .low && t.pin 5 == some .low && t.pin 6 == some .floating && t.trace == []) = true := by
  decide -- L2.1 row 1

theorem test_dir_masked : ok (run (State.resetWith half) 0x200FF) (fun t => t.port.dir == 0x0F && t.pin 4 == none) = true := by
  decide -- L2.1 row 2

theorem test_dirset : ok (run (portAt .conventional 0x04 0 0) 0x20103) (fun t => t.port.dir == 0x07 && t.pin 0 == some .low) = true := by
  decide -- L2.1 row 3

theorem test_dirset_read : ok (run (portAt .conventional 0x07 0 0) 0x00100) (fun t => t.trace == [.readData 0x00]) = true := by
  decide -- L2.1 row 3

theorem test_dirclr : ok (run (portAt .conventional 0x07 0 0) 0x20205)
    (fun t => t.port.dir == 0x02 && t.pin 0 == some .floating && t.pin 1 == some .low) = true := by
  decide -- L2.1 row 5

theorem test_dirtgl : ok (run (portAt .conventional 0x0F 0 0) 0x203FF) (fun t => t.port.dir == 0xF0) = true := by
  decide -- L2.1 row 6

theorem test_vport_dir : ok (run State.reset 0x600FF) (fun t => t.port.dir == 0xFF && t.pin 7 == some .low) = true := by
  decide -- L2.1 row 8

theorem test_out : ok (run (portAt .conventional 0xFF 0 0) 0x204A5)
    (fun t => t.port.out == 0xA5 && t.port.inp == 0xA5 && t.pin 1 == some .low) = true := by
  decide -- L2.2 row 1

theorem test_out_inputs : ok (run State.reset 0x204FF)
    (fun t => t.port.out == 0xFF && t.port.inp == 0 && t.pin 0 == some .floating && t.trace == []) = true := by
  decide -- L2.2 row 2

theorem test_outset : ok (run (portAt .conventional 0x01 0 0) 0x20501) (fun t => t.port.out == 0x01 && t.port.inp == 0x01) = true := by
  decide -- L2.2 row 4

theorem test_outclr_falling : ok (run ((portAt .conventional 0x01 0x01 0).setPinctrl 0 0x03) 0x20601)
    (fun t => t.port.out == 0 && t.port.inp == 0 && t.port.intflags == 0x01 && t.portReq && t.trace == [.raise 3]) = true := by
  decide -- L2.2 row 5

theorem test_outtgl_bothedges : ok (run ((portAt .conventional 0x01 0 0).setPinctrl 0 0x01) 0x20701)
    (fun t => t.port.out == 0x01 && t.port.intflags == 0x01 && t.trace == [.raise 3]) = true := by
  decide -- L2.2 row 6

theorem test_out_order : ok (run (((portAt .conventional 0x03 0 0).setPinctrl 0 0x01).setPinctrl 1 0x01) 0x20403)
    (fun t => t.port.intflags == 0x03 && t.trace == [.raise 3, .raise 3]) = true := by
  decide -- L2.2 row 8

theorem test_out_value_signal :
    ok (run { portAt .conventional 0xFF 0 0 with subs := { Config.conventional.subscriptions with portValue := [.ext 5 55] } } 0x204A5)
      (fun t => t.trace == [0x01, 0x05, 0x25, 0xA5].map fun b => .signal .portValue .portValue (.portByte b) 55) = true := by
  decide -- L2.2 row 9

theorem test_vport_out : ok (run (portAt .conventional 0xFF 0 0) 0x601A5) (fun t => t.port.out == 0xA5 && t.port.inp == 0xA5) = true := by
  decide -- L1.6

theorem test_in_write : ok (run (portAt .conventional 0x05 0x05 0) 0x208FF) (fun t => t == { portAt .conventional 0x05 0x05 0 with inbox := [] }) = true := by
  decide +kernel -- L2.3 row 1

theorem test_in_read : ok (run (portAt .conventional 0x05 0x05 0) 0x00800) (fun t => t.trace == [.readData 0x05]) = true := by
  decide -- L2.3 row 1

theorem test_intflags_partial : ok (run (portAt .conventional 0 0 0x05) 0x20904)
    (fun t => t.port.intflags == 0x01 && t.portReq && t.trace == []) = true := by
  decide -- L1.4 step 2

theorem test_intflags_all : ok (run (portAt .conventional 0 0 0x01) 0x20901)
    (fun t => t.port.intflags == 0 && !t.portReq && t.trace == [.cancel 3]) = true := by
  decide -- L1.4 step 3

theorem test_intflags_reassert :
    ok (run ((portAt { Config.conventional with levelReassertOnClear := true } 0 0 0x08).setPinctrl 3 0x05) 0x20908)
      (fun t => t.port.intflags == 0x08 && t.portReq && t.trace == [.cancel 3, .raise 3]) = true := by
  decide -- L2.3 row 6

theorem test_vport_intflags : ok (run (portAt .conventional 0 0 0x01) 0x60301)
    (fun t => t.port.intflags == 0 && t.trace == [.cancel 3]) = true := by
  decide -- L2.3 row 9

theorem test_vport_in_read : ok (run (portAt .conventional 0x05 0x05 0) 0x40200) (fun t => t.trace == [.readData 0x05]) = true := by
  decide -- L2.3 row 10

theorem test_reserved_write : ok (run State.reset 0x20C55) (fun t => t == State.reset) = true := by
  decide +kernel -- L2.3 row 7

theorem test_reserved_read : ok (run State.reset 0x01F00) (fun t => t.trace == [.readData 0x00]) = true := by
  decide -- L2.3 row 8

theorem test_pin3ctrl_level : ok (run State.reset 0x21305)
    (fun t => t.port.intflags == 0x08 && t.portReq && t.trace == [.raise 3]) = true := by
  decide -- L1.3

theorem test_pin3ctrl_level_high : ok (run (portAt .conventional 0x08 0x08 0) 0x21305)
    (fun t => t.port.intflags == 0 && t.trace == [.cancel 3]) = true := by
  decide -- L2.4 row 2

theorem test_pin2ctrl_pullup : ok (run State.reset 0x21208)
    (fun t => t.pin 2 == some .pullUp && t.port.inp == 0 && t.trace == [.cancel 3]) = true := by
  decide -- L2.4 row 4

theorem test_pin5ctrl_absent : ok (run (State.resetWith half) 0x21505) (fun t => t.pinctrl 5 == 0 && t.trace == []) = true := by
  decide -- L2.4 row 5

theorem test_pin0ctrl_all_bits : ok (run State.reset 0x210F5) (fun t => t.pinctrl 0 == 0xF5 && t.port.intflags == 0x01) = true := by
  decide -- L2.4 row 7

theorem test_pinset_high_rising : ok (run (State.reset.setPinctrl 2 0x02) 0xC0021)
    (fun t => t.pin 2 == some .high && t.port.inp == 0x04 && t.port.intflags == 0x04 && t.portReq) = true := by
  decide -- the example of R108

theorem test_pinset_low_falling : ok (run { (portAt .conventional 0x10 0x10 0).setPinctrl 4 0x03 with
    port := { PortRegs.reset with inp := 0x10, pinctrl := (Vector.replicate 8 0).set 4 0x03 } } 0xC0040)
    (fun t => t.port.inp == 0 && t.port.intflags == 0x10 && t.trace == [.raise 3]) = true := by
  decide -- the example of R222

theorem test_pinset_pulldown_level : ok (run (State.reset.setPinctrl 4 0x05) 0xC0044)
    (fun t => t.port.inp == 0 && t.port.intflags == 0x10 && t.trace == [.raise 3]) = true := by
  decide -- L2.5 row 7

theorem test_pinset_shorted : ok (run ((portAt .conventional 0x10 0x10 0).setPinctrl 4 0x01) 0xC0046)
    (fun t => t.port.inp == 0x10 && t.port.intflags == 0 && t.trace == [.pinShorted ⟨'A', 4⟩]) = true := by
  decide -- L2.5 row 9

theorem test_pinset_high_disabled : ok (run (State.reset.setPinctrl 4 0x04) 0xC0041)
    (fun t => t.port.inp == 0x10 && t.port.intflags == 0) = true := by
  decide -- L2.5 row 5

theorem test_pinset_absent : refusedWith (run (State.resetWith half) 0xC0051) 19 = true := by decide -- L2.6 row 1

theorem test_sleep_unknown : refusedWith (run State.reset 0xC0307) 16 = true := by decide -- L2.6 row 4

theorem test_decoder_refusals :
    refusedWith (run State.reset 0x10000) 16 = true ∧ refusedWith (run State.reset 0xE0000) 16 = true ∧
    refusedWith (run State.reset 0xCFF00) 16 = true ∧ refusedWith (run State.reset 0xC0007) 16 = true ∧
    refusedWith (run State.reset 0x02000) 17 = true ∧ refusedWith (run State.reset 0x40400) 17 = true ∧
    refusedWith (run State.reset 0x80800) 17 = true ∧
    refusedWith (run (State.resetWith { Config.conventional with hasVport := false }) 0x40000) 17 = true := by
  decide -- L2.7 rows 1 to 7

theorem test_lifecycle :
    refusedWith (run { State.reset with init := .uninitialized } 0x00000) 21 = true ∧
    ok (run { State.reset with init := .uninitialized } 0xC0200) (fun t => t.init == .initialized) = true ∧
    refusedWith (run { State.reset with init := .initialized } 0x200FF) 21 = true ∧
    refusedWith (run State.reset 0xC0200) 22 = true ∧
    refusedWith (run { State.reset with init := .failed } 0xC0100) 23 = true := by
  decide -- L2.8 rows 2 to 5

theorem test_init_failed : ok (run { State.reset with
    init := .uninitialized, cfg := { Config.conventional with devicePins := 0xF7 } } 0xC0200)
    (fun t => t.init == .failed) = true := by
  decide -- L2.8 row 5

theorem test_reset : ok (run { portAt .conventional 0xA5 0xA5 0x01 with
      ac := { acOn.ac with intctrl := 0x01 }, acReq := true } 0xC0100)
    (fun t => t.port == PortRegs.reset && t.pin 7 == some .floating && t.acStatus == 0 && t.ac.ref.isSome &&
      t.trace == [.cancel 3, .cancel 17]) = true := by
  decide -- L2.8 row 1

theorem test_ctrla_enable : ok (run acOff 0xA0001) (fun t => t.ac.raw && t.acStatus == 0x11 && !t.acReq) = true := by
  decide +kernel -- L2.9 row 1

theorem test_ctrla_hysteresis : ok (run { acOff with ac := { acOff.ac with chan := [(0, 51 / 100)] } } 0xA0005)
    (fun t => !t.ac.raw && t.acStatus == 0) = true := by
  decide +kernel -- L2.9 row 5

theorem test_muxctrla_invert : ok (run acOn 0xA0280) (fun t => t.ac.raw && t.acStatus == 0x01) = true := by
  decide +kernel -- L2.9 row 9

theorem test_muxctrla_disabled : ok (run acOff 0xA0218) (fun t => t.ac.muxctrla == 0x18) = true := by
  decide -- L2.9 row 12

theorem test_ctrla_faults :
    faults (run State.reset 0xA0001) 4 = true ∧ faults (run (acOff.setMuxctrla 0x18) 0xA0001) 3 = true := by
  decide -- L2.9 rows 11 and 13

theorem test_intctrl : ok (run acOn 0xA0601) (fun t => t.acReq && t.trace == [.raise 17]) = true := by
  decide -- L2.9 row 2

theorem test_intctrl_clear : ok (run { acOn.setIntctrl 0x01 with acReq := true } 0xA0600)
    (fun t => t.ac.cmp && !t.acReq && t.trace == [.cancel 17]) = true := by
  decide -- L2.9 row 17

theorem test_status : ok (run { acOn.setIntctrl 0x01 with acReq := true } 0xA0701)
    (fun t => t.acStatus == 0x10 && t.trace == [.cancel 17]) = true := by
  decide -- L2.9 row 3

theorem test_status_read : ok (run acOn 0x80700) (fun t => t.trace == [.readData 0x11]) = true := by
  decide -- L2.9 row 1

theorem test_ctrla_read : ok (run (acOff.setCtrla 0xF7) 0x80000) (fun t => t.trace == [.readData 0xF7]) = true := by
  decide -- L2.9 row 19

theorem test_ac_reserved :
    ok (run acOff 0xA0155) (fun t => t.trace == [] && t.ac.ctrla == 0) = true ∧
    ok (run acOff 0x80100) (fun t => t.trace == [.readData 0]) = true := by
  decide -- L2.9 row 18

theorem test_achan_falls : ok (run ({ acOn.setIntctrl 0x01 with ac := { acOn.ac with intctrl := 0x01, cmp := false } }) 0xC0500 (4 / 10))
    (fun t => !t.ac.raw && t.acStatus == 0x01 && t.acReq && t.trace == [.raise 17]) = true := by
  decide +kernel -- L2.9 row 4

theorem test_achan_holds : ok (run (acOn.setCtrla 0x05) 0xC0500 (495 / 1000)) (fun t => t.ac.raw && t.ac.out) = true := by
  decide +kernel -- L2.9 row 7

theorem test_achan_disabled : ok (run (acOn.setCtrla 0x00) 0xC0500 (1 / 10)) (fun t => t.acStatus == 0x11) = true := by
  decide -- L2.9 row 10

theorem test_sleep_suspends : ok (run acOn 0xC0302) (fun t => t.ac.suspended && t.sleep == some 2 && t.acStatus == 0x11) = true := by
  decide -- L2.9 row 14

theorem test_wake_evaluates : ok (run { acOn with
      sleep := some 2, ac := { acOn.ac with suspended := true, chan := [(0, 2 / 10)] } } 0xC0400)
    (fun t => t.sleep == none && !t.ac.out && t.acStatus == 0x01) = true := by
  decide +kernel -- L2.9 row 14

theorem test_aref : ok (run acOn 0xC0600 (7 / 10)) (fun t => t.ac.ref == some (7 / 10) && !t.ac.out) = true := by
  decide +kernel -- from R113, R251: 0.6 V against 0.7 V

theorem test_control_requests :
    ok (run acOn 0xC0700) (fun t => t.trace == [.readData 0x01]) = true ∧
    ok (run acOn 0xC0800) (fun t => t.trace == [.readVolt (1 / 2)]) = true ∧
    ok (run acOn 0xC0900) (fun t => t.trace == [.readHandle .portValue]) = true := by
  decide +kernel -- L2.9 row 16

/-- A hook of another peripheral on pin 0, after the port's own, that does `r` when it is called. -/
def hooked (r : Reaction) : State :=
  let c : Config := { Config.conventional with pinSubscribers := (Vector.replicate 8 ⟨[], []⟩).set 0 ⟨[], [⟨1, 10⟩]⟩ }
  { State.resetWith c with env := [r] }

theorem test_bus_faults :
    faults (run (hooked [.subscribe (.pin 0) (.ext 9 0)]) 0xC0001) 1 = true ∧
    faults (run (hooked [.input (.word 0xC0000 0)]) 0xC0001) 2 = true ∧
    ok (run (hooked [.input (.word 0xC0001 0)]) 0xC0001) (fun t => t.port.inp == 0x01) = true := by
  decide +kernel -- L2.10 rows 1 to 3

theorem test_list_change_elsewhere : (match run (hooked [.subscribe (.pin 1) (.ext 9 0)]) 0xC0001 with
      | .refused q => q == .listChangeOutsideDelivery
      | _ => false) = true ∧ faults (run (hooked [.unsubscribe (.pin 0) (.ext 1)]) 0xC0001) 1 = true ∧
    faults (run (hooked [.unsubscribe (.pin 0) .port]) 0xC0001) 1 = true := by
  decide +kernel -- from R35, R132

theorem test_ungated_port_asleep : ok (run { State.reset with sleep := some 2 } 0xC0001) (fun t => t.port.inp == 0x01) = true := by
  decide -- from R230

theorem test_access_width :
    refusedWith (step { State.reset with inbox := [.load 0x400 2] }) 18 = true ∧
    refusedWith (step { State.reset with inbox := [.fetch 0x400] }) 20 = true ∧
    refusedWith (step { State.reset with inbox := [.load 0x420 1] }) 17 = true ∧
    ok (step { State.reset with inbox := [.store 0x401 1 0x03] }) (fun t => t.port.dir == 0x03) = true := by
  decide -- R66, R63, R72

theorem test_script :
    assemble Config.conventional (.wr (.port .dirset) 0x0F) = some 0x2010F ∧
    assemble Config.conventional (.rd (.vport .inp)) = some 0x40200 ∧
    assemble Config.conventional (.pinset 3 .high) = some 0xC0031 ∧
    assemble Config.conventional (.st 0x404 0xA5) = some 0x204A5 ∧
    assemble Config.conventional (.pincfg 2 1 true) = some 0x21209 ∧
    assemble Config.conventional (.ld 0x7FF) = none := by
  decide -- R116, R117

/-! ## Witnesses: each obligation's hypotheses are met together -/

/-- The PORT part of the invariant, evaluated. -/
def portOkB (s : State) : Bool :=
  s.port.dir &&& ~~~s.cfg.pinMask == 0 && s.port.out &&& ~~~s.cfg.pinMask == 0 && s.port.inp &&& ~~~s.cfg.pinMask == 0 &&
  s.port.intflags &&& ~~~s.cfg.pinMask == 0 && decide (∀ i, s.cfg.hasPin i = false → s.pinctrl i = 0) &&
  s.portReq == (s.port.intflags != 0)

/-- The comparator's part. -/
def acOkB (s : State) : Bool :=
  s.ac.ctrla &&& ~~~ctrlaMask == 0 && s.ac.muxctrla &&& ~~~muxctrlaMask == 0 && s.ac.intctrl &&& ~~~intctrlMask == 0 &&
  s.ac.suspended == s.suspendedNow && s.acReq == s.acReqWanted

/-- What INIT registered. -/
def registeredB (s : State) : Bool :=
  s.cfg.initOk && s.claims == s.cfg.claimTable && s.subs == s.cfg.subscriptions

/-- What the invariant says in every lifecycle state. -/
def baseB (s : State) : Bool :=
  s.delivering == [] && chanWf s.ac.chan && decide (∀ i, s.cfg.hasPin i = false → s.pin i = none)

/-- The invariant in a Ready block. -/
def operatingB (s : State) : Bool :=
  s.init == .ready && baseB s && registeredB s && portOkB s && acOkB s &&
  decide (∀ i, s.cfg.hasPin i = true → (s.pin i).isSome = true)

theorem portOk_of (s : State) (h : portOkB s = true) : s.PortOk := by
  simp only [portOkB, Bool.and_eq_true, beq_iff_eq, decide_eq_true_eq] at h
  obtain ⟨⟨⟨⟨⟨h1, h2⟩, h3⟩, h4⟩, h5⟩, h6⟩ := h
  exact ⟨h1, h2, h3, h4, h5, h6⟩

theorem acOk_of (s : State) (h : acOkB s = true) : s.AcOk := by
  simp only [acOkB, Bool.and_eq_true, beq_iff_eq] at h
  obtain ⟨⟨⟨⟨h1, h2⟩, h3⟩, h4⟩, h5⟩ := h
  exact ⟨h1, h2, h3, h4, h5⟩

theorem registered_of (s : State) (h : registeredB s = true) : s.Registered := by
  simp only [registeredB, Bool.and_eq_true, beq_iff_eq] at h
  obtain ⟨⟨h1, h2⟩, h3⟩ := h
  exact ⟨h1, h2, h3⟩

theorem operating_of (s : State) (h : operatingB s = true) : s.Operating := by
  simp only [operatingB, baseB, Bool.and_eq_true, beq_iff_eq, decide_eq_true_eq] at h
  obtain ⟨⟨⟨⟨⟨hi, ⟨h1, h2⟩, h3⟩, h4⟩, h5⟩, h6⟩, h7⟩ := h
  exact ⟨⟨h1, h2, h3, fun _ => registered_of s h4, fun _ => portOk_of s h5, fun _ => acOk_of s h6, fun _ => h7⟩, hi⟩

/-- In an Initialized block only the base part and the registrations are constrained. -/
theorem inv_of_initialized (s : State) (hi : s.init = .initialized) (h : (baseB s && registeredB s) = true) : s.Inv := by
  simp only [baseB, Bool.and_eq_true, beq_iff_eq, decide_eq_true_eq] at h
  obtain ⟨⟨⟨h1, h2⟩, h3⟩, h4⟩ := h
  exact ⟨h1, h2, h3, fun _ => registered_of s h4, fun e => by simp [hi] at e, fun e => by simp [hi] at e,
    fun e => by simp [hi] at e⟩

/-- A port at work: pins 0 and 2 outputs, pin 2 High, pin 3 sensing LEVEL and flagged. -/
def portWork : State := (portAt Config.conventional 0x05 0x04 0x08).setPinctrl 3 0x05

/-- The same with four pins. -/
def portHalf : State := (portAt half 0x05 0x04 0x08).setPinctrl 3 0x05

/-- The comparator at work, its interrupt enabled and pending. -/
def acWork : State := { acOn.setIntctrl 0x01 with acReq := true }

theorem witness_DecodeInvertsEncode :
    (Instr.wrPortReserved0A 0x0B 0xFF).wellFormed = true ∧ (Instr.pinsetState7 0xFF).wellFormed = true ∧
    (Instr.achan 0xFF 3).wellFormed = true := by decide

theorem witness_IgnoredBitsDoNotMatter :
    (let w : Tw20 := 0x00800; let w' : Tw20 := 0x008FF
     fieldZ w = false ∧ fieldZ w' = false ∧ fieldW w = false ∧ fieldW w' = false ∧ fieldR w = fieldR w' ∧
     fieldO w = fieldO w' ∧ fieldR w ≠ 3#2) ∧
    (let w : Tw20 := 0xC0100; let w' : Tw20 := 0xC01FF
     fieldR w = fieldR w' ∧ fieldO w = fieldO w' ∧ fieldR w = 3#2 ∧
     fieldO w ∈ [0x01#8, 0x02#8, 0x04#8, 0x06#8, 0x07#8, 0x08#8, 0x09#8]) ∧
    (let w : Tw20 := 0xC0071; let w' : Tw20 := 0xC00F9
     fieldR w = fieldR w' ∧ fieldO w = fieldO w' ∧ fieldR w = 3#2 ∧ fieldO w = 0x00#8 ∧
     pinsetPin (fieldD w) = pinsetPin (fieldD w') ∧ pinsetCode (fieldD w) = pinsetCode (fieldD w') ∧
     pinsetCode (fieldD w) ≠ 7#3) ∧
    (let w : Tw20 := 0xC0302; let w' : Tw20 := 0xC03FA
     fieldR w = fieldR w' ∧ fieldO w = fieldO w' ∧ fieldR w = 3#2 ∧ fieldO w = 0x03#8 ∧
     (fieldD w).extractLsb' 0 3 = (fieldD w').extractLsb' 0 3) := by decide

theorem witness_ReservedEncodingsAreRefused : State.reset.init = .ready ∧ (7 : SleepMode) ∉ State.reset.cfg.sleepModes := by
  decide

theorem witness_UnclaimedOffsetsAreRefused :
    (fieldZ 0x02000 = false ∧ fieldR 0x02000 ≠ 3#2 ∧
      State.reset.cfg.claimsOffset (regionOfField (fieldR 0x02000)) (fieldO 0x02000).toNat = false) ∧
    State.reset.cfg.defaultLayout = true ∧
    (∀ r, ∃ row ∈ unclaimedReads r, inRange row.1 row.2.1 0x20 = true) ∧
    (∀ r, ∃ row ∈ unclaimedWrites r, inRange row.1 row.2.1 0xFF = true) := by
  refine ⟨by decide, by decide, fun r => ?_, fun r => ?_⟩
  · cases r
    · exact ⟨(0x20, 0x3F, .rdPortUnclaimed20), by simp [unclaimedReads], by decide⟩
    · exact ⟨(0x20, 0x3F, .rdVportUnclaimed20), by simp [unclaimedReads], by decide⟩
    · exact ⟨(0x20, 0x3F, .rdAcUnclaimed20), by simp [unclaimedReads], by decide⟩
  · cases r
    · exact ⟨(0x80, 0xFF, .wrPortUnclaimed80), by simp [unclaimedWrites], by decide⟩
    · exact ⟨(0x80, 0xFF, .wrVportUnclaimed80), by simp [unclaimedWrites], by decide⟩
    · exact ⟨(0x80, 0xFF, .wrAcUnclaimed80), by simp [unclaimedWrites], by decide⟩

theorem witness_StepRunsTheDecodedInstruction :
    { portWork with inbox := [.word 0x204FF 0, .fetch 0x400] }.inbox = .word 0x204FF 0 :: [.fetch 0x400] ∧
    { portWork with inbox := [.fetch 0x400] }.inbox = .fetch 0x400 :: [] := ⟨rfl, rfl⟩

theorem witness_AccessesByAddress :
    State.reset.cfg.locate 0x41F = some (.port, 0x1F) ∧ State.reset.cfg.locate 0x003 = some (.vport, 3) ∧
    State.reset.cfg.locate 0x687 = some (.ac, 7) ∧ State.reset.cfg.locate 0x420 = none ∧ (2 : Nat) ≠ 1 := by
  refine ⟨?_, ?_, ?_, ?_, ?_⟩ <;> decide

theorem witness_ResetCompletes :
    (portWork.Inv ∧ portWork.init = .ready ∧ portWork.Silent) ∧
    ({ portWork with init := .initialized, portReq := false }.Inv ∧
      { portWork with init := .initialized, portReq := false }.init = .initialized ∧
      { portWork with init := .initialized, portReq := false }.Silent) :=
  ⟨⟨(operating_of portWork (by decide)).inv, rfl, rfl⟩,
   inv_of_initialized _ rfl (by decide), rfl, rfl⟩

theorem witness_InitCompletes :
    ({ portWork with init := .uninitialized, claims := [] }.init = .uninitialized ∧
      { portWork with init := .uninitialized, claims := [] }.cfg.initOk = true) ∧
    { State.reset with init := .uninitialized, cfg := { Config.conventional with devicePins := 0xF7 } }.cfg.initOk = false := by
  refine ⟨⟨rfl, ?_⟩, ?_⟩ <;> decide

theorem witness_BootReachesTheResetValues :
    let s := { portHalf with init := .uninitialized, claims := [], portReq := false, acReq := true, ac := acWork.ac }
    s.init = .uninitialized ∧ s.delivering = [] ∧ s.Silent ∧ s.cfg.initOk = true ∧ chanWf s.ac.chan = true ∧
    (∀ i, s.cfg.hasPin i = false → s.pin i = none) := by
  refine ⟨rfl, rfl, rfl, ?_, ?_, ?_⟩ <;> decide

theorem witness_LifecycleAdmits :
    (∃ e, requestOfWord State.reset.cfg 0x10000 0 = .error e) ∧
    requestOfWord State.reset.cfg 0xC0200 0 = .ok .init ∧ requestOfWord State.reset.cfg 0xC0100 0 = .ok .reset ∧
    requestOfWord State.reset.cfg 0x00800 0 = .ok (.read .port 0x08) ∧ State.reset.init = .ready ∧
    { State.reset with init := .failed }.init = .failed ∧ { State.reset with init := .uninitialized }.init = .uninitialized ∧
    { State.reset with init := .initialized }.init = .initialized ∧
    { Config.conventional with devicePins := 0xF7 }.initOk = false :=
  ⟨⟨_, rfl⟩, rfl, rfl, rfl, rfl, rfl, rfl, rfl, by decide⟩

/-- An operating block with the default layout and all the PORT's state in use: the premises of the PORT's statements. -/
theorem witness_port : portWork.Operating ∧ portWork.cfg.defaultLayout = true ∧ portWork.Silent ∧
    portWork.cfg.hasVport = true ∧ portWork.cfg.vportSpan = 4 ∧ portWork.cfg.levelReassertOnClear = false ∧
    portWork.cfg.hasPin 7 = true ∧ portWork.InFollowsPins := by
  refine ⟨operating_of _ (by decide), ?_, rfl, ?_, ?_, ?_, ?_, ?_⟩
  any_goals decide
  unfold State.InFollowsPins
  intro i st
  revert i
  cases st <;> decide

theorem witness_PortReadsReturnTheRegisters : portHalf.Operating ∧ portHalf.cfg.defaultLayout = true ∧
    portHalf.cfg.hasPin 3 = true ∧ portHalf.cfg.hasPin 4 = false ∧
    (0x18, 0x1F, Instr.rdPortReserved18) ∈ reservedReads .port ∧ inRange 0x18 0x1F 0x1F = true :=
  ⟨operating_of _ (by decide), by decide, by decide, by decide, by simp [reservedReads], by decide⟩

theorem witness_VportReadsReturnTheCanonicalRegisters :
    (portWork.Operating ∧ portWork.cfg.hasVport = true ∧ portWork.cfg.vportSpan = 4) ∧
    (State.resetWith { Config.conventional with hasVport := false }).cfg.hasVport = false :=
  ⟨⟨witness_port.1, rfl, rfl⟩, rfl⟩

theorem witness_AcReadsReturnTheRegisters : acWork.Operating ∧ acWork.cfg.acSpan = 8 ∧
    (0x04, 0x05, Instr.rdAcReserved04) ∈ reservedReads .ac ∧ inRange 0x04 0x05 0x05 = true :=
  ⟨operating_of _ (by decide), rfl, by simp [reservedReads], by decide⟩

theorem witness_BusReadsHaveNoSideEffects : fieldZ 0x00900 = false ∧ fieldW 0x00900 = false ∧ fieldR 0x00900 ≠ 3#2 ∧
    exec (decode 0x00900 0) portWork = .next (portWork.emit (.readData 0x08)) ∧
    transact (.read .ac 0x07) acWork = .next (acWork.emit (.readData 0x11)) :=
  ⟨by decide, by decide, by decide, rfl, rfl⟩

/-- A configuration whose regions are one byte longer than the default ones. -/
def wide : Config := { Config.conventional with portSpan := 0x21, vportSpan := 5, acSpan := 9 }

theorem witness_ClaimedUndefinedOffsetsAreNoOps : (State.resetWith wide).Operating ∧ wide.pinctrlOffset = 0x10 ∧
    (wide.claimsOffset .port 0x20 = true ∧ wide.claimsOffset .vport 0x04 = true ∧ wide.claimsOffset .ac 0x08 = true) ∧
    (0x20, 0x3F, Instr.rdPortUnclaimed20) ∈ reservedReads .port ++ unclaimedReads .port ∧
    (0x04, 0x07, Instr.wrVportUnclaimed04) ∈ reservedWrites .vport ++ unclaimedWrites .vport ∧
    inRange 0x20 0x3F 0x20 = true ∧ inRange 0x04 0x07 0x04 = true :=
  ⟨operating_of _ (by decide), rfl, by decide, by simp [reservedReads, unclaimedReads],
   by simp [reservedWrites, unclaimedWrites], by decide, by decide⟩

theorem witness_DirWritesRedriveThePort :
    portHalf.Operating ∧ portHalf.Silent ∧ portHalf.cfg.defaultLayout = true ∧ portHalf.cfg.hasVport = true :=
  ⟨operating_of _ (by decide), rfl, rfl, rfl⟩

theorem witness_OutWritesRedriveThePort :
    portWork.Operating ∧ portWork.Silent ∧ portWork.cfg.defaultLayout = true ∧ portWork.cfg.hasVport = true :=
  ⟨witness_port.1, rfl, rfl, rfl⟩

theorem witness_PseudoRegisterLaws : portWork.Operating ∧ portWork.Silent ∧ portWork.cfg.defaultLayout = true :=
  ⟨witness_port.1, rfl, rfl⟩

theorem witness_VportWritesAreCanonicalWrites :
    portWork.Operating ∧ portWork.cfg.hasVport = true ∧ portWork.cfg.defaultLayout = true := ⟨witness_port.1, rfl, rfl⟩

theorem witness_TogglingTwiceRestores : portWork.Operating ∧ portWork.Silent ∧
    ∃ t t', exec (.wrPortDirtgl 0xFF) portWork = .next t ∧ exec (.wrPortDirtgl 0xFF) t = .next t' :=
  ⟨witness_port.1, rfl, _, _, rfl, rfl⟩

theorem witness_LoopBackReadReturnsOut :
    portWork.Operating ∧ portWork.Silent ∧ portWork.InFollowsPins ∧ portWork.cfg.defaultLayout = true ∧
    portWork.inputsSense = true ∧ portWork.outputsDrive = true :=
  ⟨witness_port.1, rfl, witness_port.2.2.2.2.2.2.2, rfl, rfl, rfl⟩

theorem witness_WritesWithoutEffect : portWork.Operating ∧ portWork.cfg.defaultLayout = true ∧
    portWork.cfg.hasVport = true ∧ (0x0A, 0x0B, Instr.wrPortReserved0A) ∈ reservedWrites .port ∧
    inRange 0x0A 0x0B 0x0A = true :=
  ⟨witness_port.1, rfl, rfl, by simp [reservedWrites], by decide⟩

theorem witness_IntflagsWriteOneToClear : portWork.Operating ∧ portWork.cfg.defaultLayout = true ∧
    portWork.cfg.levelReassertOnClear = false ∧ portWork.cfg.hasVport = true := ⟨witness_port.1, rfl, rfl, rfl⟩

theorem witness_IntflagsLevelReasserts :
    let s := (portAt { Config.conventional with levelReassertOnClear := true } 0x05 0x04 0x0C).setPinctrl 3 0x05
    s.Operating ∧ s.cfg.defaultLayout = true ∧ s.cfg.levelReassertOnClear = true :=
  ⟨operating_of _ (by decide), rfl, rfl⟩

theorem witness_PinctrlWriteOfAnExistingPin :
    portHalf.Operating ∧ portHalf.Silent ∧ portHalf.cfg.defaultLayout = true ∧ portHalf.cfg.hasPin 3 = true :=
  ⟨operating_of _ (by decide), rfl, rfl, rfl⟩

theorem witness_PinctrlWriteOfAnAbsentPin :
    portHalf.Operating ∧ portHalf.cfg.defaultLayout = true ∧ portHalf.cfg.hasPin 4 = false :=
  ⟨operating_of _ (by decide), rfl, rfl⟩

theorem witness_PinsetDrivesThePin : portHalf.Operating ∧ portHalf.cfg.hasPin 3 = true ∧ portHalf.Silent ∧
    portHalf.cfg.hasPin 4 = false ∧ portHalf.pin 2 = some .high :=
  ⟨operating_of _ (by decide), rfl, rfl, rfl, by decide⟩

theorem witness_PinChangeSetsTheFlagAndRaises : portWork.Operating ∧ portWork.cfg.hasPin 7 = true ∧
    portWork.subscribers (.pin 7) = [.port 7] ∧ portWork.subscribers .portValue = [] ∧ portWork.inputsSense = true ∧
    portWork.pin 7 ≠ some .high ∧ PinState.high ≠ .shorted :=
  ⟨witness_port.1, rfl, by decide, rfl, rfl, by decide, by decide⟩

theorem witness_ShortedIsForwardedAndIgnored : portWork.Operating ∧ portWork.cfg.hasPin 2 = true ∧
    portWork.subscribers (.pin 2) = [.port 2] ∧ portWork.pin 2 ≠ some .shorted :=
  ⟨witness_port.1, rfl, by decide, by decide⟩

theorem witness_AbsentPinsAreNeverDriven :
    (∃ t, exec (.wrPortDir 0xFF) portHalf = .next t) ∧ portHalf.cfg.hasPin 4 = false := ⟨⟨_, rfl⟩, rfl⟩

theorem witness_InChangesOnlyWithItsPin : portWork.Inv ∧ portWork.Silent ∧
    ∃ t, exec (.pinsetHigh 7) portWork = .next t ∧ bitAt t.port.inp 7 ≠ bitAt portWork.port.inp 7 :=
  ⟨witness_port.1.inv, rfl, _, rfl, by decide⟩

theorem witness_FlagsClearOnlyByAcknowledge : (Instr.wrVportIntflags 0x08).wellFormed = true ∧ portWork.Silent ∧
    ∃ t, exec (.wrVportIntflags 0x08) portWork = .next t ∧ bitAt portWork.port.intflags 3 = true ∧
      bitAt t.port.intflags 3 = false := ⟨rfl, rfl, _, rfl, by decide, by decide⟩

/-- `hooked` meets the premises of the two fault statements on pin 0, with each reaction they name. -/
theorem witness_ReentrantDriveFaults :
    let a := hooked [.input (.word (encode (pinsetOf .low 0)) 0)]
    let b := hooked [.input (.word (encode (pinsetOf .high 0)) 0)]
    (a.Operating ∧ a.cfg.hasPin 0 = true ∧ a.subscribers (.pin 0) = [.port 0, .ext 1 10] ∧
      a.subscribers .portValue = [] ∧ a.pin 0 ≠ some .high ∧
      a.env = [[.input (.word (encode (pinsetOf .low 0)) 0)]] ∧ PinState.low ≠ .high) ∧
    (b.Operating ∧ b.subscribers (.pin 0) = [.port 0, .ext 1 10] ∧ b.pin 0 ≠ some .high ∧
      b.env = [[.input (.word (encode (pinsetOf .high 0)) 0)]]) :=
  ⟨⟨operating_of _ (by decide), rfl, by decide, rfl, by decide, rfl, by decide⟩,
   operating_of _ (by decide), by decide, by decide, rfl⟩

theorem witness_ListChangeDuringDeliveryFaults :
    let a := hooked [.subscribe (.pin 0) (.ext 9 0)]
    let b := hooked [.unsubscribe (.pin 0) (.ext 1)]
    let c := hooked [.unsubscribe (.pin 0) .port]
    let d : State := { State.resetWith { Config.conventional with
      pinSubscribers := (Vector.replicate 8 ⟨[], []⟩).set 0 ⟨[⟨1, 10⟩], []⟩ } with env := [[.unsubscribe (.pin 0) .port]] }
    (a.Operating ∧ a.cfg.hasPin 0 = true ∧ a.subscribers (.pin 0) = .port 0 :: .ext 1 10 :: [] ∧
      a.subscribers .portValue = [] ∧ a.pin 0 ≠ some .high ∧
      (Subscriber.ext 9 0).hookId ∉ (a.subscribers (.pin 0)).map Subscriber.hookId ∧
      a.env = [[.subscribe (.pin 0) (.ext 9 0)]]) ∧
    (b.Operating ∧ b.subscribers (.pin 0) = .port 0 :: .ext 1 10 :: [] ∧ b.pin 0 ≠ some .high ∧
      .ext 1 ∈ (b.subscribers (.pin 0)).map Subscriber.hookId ∧ b.env = [[.unsubscribe (.pin 0) (.ext 1)]]) ∧
    (c.Operating ∧ .port ∈ (c.subscribers (.pin 0)).map Subscriber.hookId ∧ c.env = [[.unsubscribe (.pin 0) .port]]) ∧
    (d.Operating ∧ d.cfg.hasPin 0 = true ∧ d.subscribers .portValue = [] ∧ d.pin 0 ≠ some .high ∧
      d.subscribers (.pin 0) = .ext 1 10 :: [.port 0] ∧ .port ∈ (d.subscribers (.pin 0)).map Subscriber.hookId ∧
      d.env = [[.unsubscribe (.pin 0) .port]]) :=
  ⟨⟨operating_of _ (by decide), rfl, by decide, rfl, by decide, by decide, rfl⟩,
   ⟨operating_of _ (by decide), by decide, by decide, by decide, rfl⟩,
   ⟨operating_of _ (by decide), by decide, rfl⟩,
   operating_of _ (by decide), rfl, rfl, by decide, by decide, by decide, rfl⟩

theorem witness_TransactionsTerminate :
    let a := hooked [.input (.word 0xC0011 0), .subscribe (.pin 1) (.ext 9 0)]
    a.delivering = [] ∧ ∀ r ∈ a.env, Action.spin ∉ r := ⟨rfl, by decide⟩

theorem witness_RaiseAndCancelAreIdempotent : portWork.portReq = true ∧ State.reset.portReq = false ∧
    acWork.acReq = acWork.acReqWanted ∧
    ({ acWork with acReq := false }.acReq = false ∧ State.acReqWanted { acWork with acReq := false } = true) ∧
    ((acWork.setCmp false).acReq = true ∧ (acWork.setCmp false).acReqWanted = false) := by decide

theorem witness_CtrlaWriteWhileInactive :
    (acWork.Operating ∧ acWork.cfg.acSpan = 8 ∧ (acWork.setCtrla (0xFE &&& 0xF7)).acEnable = false) ∧
    (let s := { acWork with sleep := some 2, ac := { acWork.ac with suspended := true } }
     s.Operating ∧ (s.setCtrla (0xFF &&& 0xF7)).suspendedNow = true) :=
  ⟨⟨operating_of _ (by decide), rfl, rfl⟩, operating_of _ (by decide), by decide⟩

theorem witness_CtrlaWriteEvaluates : acOff.Operating ∧ acOff.Silent ∧ acOff.cfg.acSpan = 8 ∧
    acOff.acInput .pos = some (3 / 5) ∧ acOff.acInput .neg = some (1 / 2) ∧
    (acOff.setCtrla (0x01 &&& 0xF7)).acEnable = true ∧ (acOff.setCtrla (0x01 &&& 0xF7)).suspendedNow = false :=
  ⟨operating_of _ (by decide), rfl, rfl, rfl, rfl, rfl, rfl⟩

/-- The comparator at work with no reference delivered. -/
def acNoRef : State := { acWork with ac := { acWork.ac with ref := none } }

theorem witness_MuxctrlaWriteSelectsAndEvaluates :
    (acOff.Operating ∧ acOff.cfg.acSpan = 8 ∧ acOff.acActive = false) ∧
    (acWork.Operating ∧ acWork.acActive = true ∧ acWork.Silent ∧
      (acWork.setMuxctrla (0x80 &&& 0x9B)).acInput .pos = some (3 / 5) ∧
      (acWork.setMuxctrla (0x80 &&& 0x9B)).acInput .neg = some (1 / 2) ∧
      acWork.cfg.acPosChannels.length ≤ (acWork.setMuxctrla (0x10 &&& 0x9B)).acMux .pos ∧
      (acWork.setMuxctrla (0x08 &&& 0x9B)).acSelected .pos = some (.src 1) ∧
      (acWork.setMuxctrla (0x08 &&& 0x9B)).chanValue 1 = none) ∧
    (let s := { acWork with cfg := { Config.conventional with acPosChannels := [.ref] }, ac := { acWork.ac with ref := none } }
     s.Operating ∧ s.acActive = true ∧ (s.setMuxctrla (0x80 &&& 0x9B)).acSelected .pos = some .ref ∧
     (s.setMuxctrla (0x80 &&& 0x9B)).ac.ref = none) ∧
    (acWork.cfg.acNegChannels.length ≤ (acWork.setMuxctrla (0x02 &&& 0x9B)).acMux .neg ∧
      (acWork.setMuxctrla (0x02 &&& 0x9B)).acInput .pos = some (3 / 5) ∧
      (acWork.setMuxctrla (0x01 &&& 0x9B)).acSelected .neg = some (.src 2) ∧
      (acWork.setMuxctrla (0x01 &&& 0x9B)).chanValue 2 = none) ∧
    (acNoRef.Operating ∧ acNoRef.acActive = true ∧
      (acNoRef.setMuxctrla (0x80 &&& 0x9B)).acInput .pos = some (3 / 5) ∧
      (acNoRef.setMuxctrla (0x80 &&& 0x9B)).acSelected .neg = some .ref ∧
      (acNoRef.setMuxctrla (0x80 &&& 0x9B)).ac.ref = none) :=
  ⟨⟨operating_of _ (by decide), rfl, rfl⟩,
   ⟨operating_of _ (by decide), rfl, rfl, rfl, rfl, by decide, rfl, rfl⟩,
   ⟨operating_of _ (by decide), rfl, rfl, rfl⟩,
   ⟨by decide, rfl, rfl, rfl⟩,
   operating_of _ (by decide), rfl, rfl, rfl, rfl⟩

theorem witness_IntctrlWriteSetsTheRequest : acWork.Operating ∧ acWork.cfg.acSpan = 8 :=
  ⟨operating_of _ (by decide), rfl⟩

theorem witness_StatusWriteOneToClear : acWork.Operating ∧ acWork.cfg.acSpan = 8 :=
  ⟨operating_of _ (by decide), rfl⟩

theorem witness_AchanStoresAndEvaluates : acWork.Operating ∧ acWork.Silent ∧ acWork.selects (.src 9) = false ∧
    acWork.selects (.src 0) = true ∧ acWork.acActive = true ∧
    (acWork.setChan 0 (2 / 5)).acInput .pos = some (2 / 5) ∧ (acWork.setChan 0 (2 / 5)).acInput .neg = some (1 / 2) :=
  ⟨operating_of _ (by decide), rfl, by decide, by decide, rfl, rfl, rfl⟩

theorem witness_ArefStoresAndEvaluates : acWork.Operating ∧ acWork.Silent ∧ acWork.selects .ref = true ∧
    acWork.acActive = true ∧ (acWork.setMuxctrla 0x01).selects .ref = false ∧
    (acWork.setRef (7 / 10)).acInput .pos = some (3 / 5) ∧ (acWork.setRef (7 / 10)).acInput .neg = some (7 / 10) :=
  ⟨operating_of _ (by decide), rfl, by decide, rfl, by decide, rfl, rfl⟩

theorem witness_OutputChangeIsPublishedAndRaises :
    let c : Config := { Config.conventional with acOutSubscribers := [⟨4, 7⟩] }
    let s := { acOn with cfg := c, subs := c.subscriptions, ac := { acOn.ac with intctrl := 0x01, cmp := false } }
    s.Operating ∧ s.Silent ∧ s.subscribers .acOut = [.ext 4 7] ∧ s.selects .ref = true ∧ s.acActive = true ∧
    (s.setRef (7 / 10)).acInput .pos = some (3 / 5) ∧ (s.setRef (7 / 10)).acInput .neg = some (7 / 10) ∧
    (s.setRef (7 / 10)).outAfter (3 / 5) (7 / 10) ≠ s.ac.out :=
  ⟨operating_of _ (by decide), rfl, rfl, by decide, rfl, rfl, rfl, by decide +kernel⟩

/-- Asleep in a mode that suspends the comparator. -/
def acAsleep : State := { acWork with sleep := some 2, ac := { acWork.ac with suspended := true } }

/-- The comparator at work with no source delivered. -/
def acNoSrc : State := { acWork with ac := { acWork.ac with chan := [] } }

theorem witness_SleepSuspendsOrResumes :
    (acWork.Operating ∧ (2 : SleepMode) ∈ acWork.cfg.sleepModes ∧ acWork.ac.suspended = false) ∧
    (acAsleep.Operating ∧ (0 : SleepMode) ∈ acAsleep.cfg.sleepModes ∧ acAsleep.ac.suspended = true ∧
      acAsleep.cfg.suspends 0 acAsleep.acRunstdby = false ∧ acAsleep.acEnable = true ∧ acAsleep.Silent ∧
      acAsleep.acInput .pos = some (3 / 5) ∧ acAsleep.acInput .neg = some (1 / 2)) :=
  ⟨⟨operating_of _ (by decide), by decide, rfl⟩,
   operating_of _ (by decide), by decide, rfl, by decide, rfl, rfl, rfl, rfl⟩

theorem witness_WakeResumesAndEvaluates :
    (acWork.Operating ∧ acWork.ac.suspended = false ∧ acWork.sleep = none) ∧
    (acAsleep.Operating ∧ acAsleep.ac.suspended = true ∧ acAsleep.acEnable = true ∧ acAsleep.Silent ∧
      acAsleep.acInput .pos = some (3 / 5) ∧ acAsleep.acInput .neg = some (1 / 2)) :=
  ⟨⟨operating_of _ (by decide), rfl, rfl⟩, operating_of _ (by decide), rfl, rfl, rfl, rfl, rfl⟩

theorem witness_ControlRequestsReply : acWork.init = .ready ∧ acWork.ac.ref = some (1 / 2) ∧ State.reset.ac.ref = none :=
  ⟨rfl, rfl, rfl⟩

/-- An outcome whose next state passes a check is a next state that passes it. -/
theorem next_of_check (o : Res) (f : State → Bool) (h : (match o with | .next t => f t | _ => false) = true) :
    ∃ t, o = .next t ∧ f t = true := by
  cases o <;> simp_all

theorem witness_CmpIsSetOnlyByATransition : acOff.Silent ∧ acOff.ac.cmp = false ∧
    ∃ t, exec (.wrAcCtrla 0x01) acOff = .next t ∧ t.ac.cmp = true := by
  refine ⟨rfl, rfl, next_of_check _ (fun t => t.ac.cmp) ?_⟩
  decide +kernel

theorem witness_PortAndComparatorDoNotInterfere :
    (acOff.Silent ∧ fieldZ 0xA0601 = false ∧ (∃ t, exec (decode 0xA0601 0) acOff = .next t) ∧ fieldR 0xA0601 = 2#2) ∧
    (fieldR 0xC0302 = 3#2 ∧ 0x03 ≤ (fieldO 0xC0302).toNat ∧ (fieldO 0xC0302).toNat ≤ 0x08) ∧
    (portWork.Silent ∧ (∃ t, exec (decode 0x204FF 0) portWork = .next t) ∧ fieldR 0x204FF = 0#2) ∧
    (fieldR 0x600FF = 1#2 ∧ fieldR 0xC0900 = 3#2 ∧ fieldO 0xC0900 ∈ [0x00#8, 0x09#8]) :=
  ⟨⟨rfl, by decide, ⟨_, rfl⟩, by decide⟩, by decide, ⟨rfl, ⟨_, rfl⟩, by decide⟩, by decide⟩

theorem witness_ConfigurationClaimsAndTracePersist : ∃ t, exec (.wrPortOut 0xFF) portWork = .next t ∧
    Instr.wrPortOut 0xFF ≠ .init := ⟨_, rfl, by decide⟩

theorem witness_ResetHasTheInvariant : wide.initOk = true ∧ half.initOk = true := by decide

theorem witness_EveryStepKeepsTheInvariant : { portWork with inbox := [.word 0x200FF 0] }.Inv ∧
    ∃ t, step { portWork with inbox := [.word 0x200FF 0] } = .next t :=
  ⟨(operating_of _ (by decide)).inv, _, rfl⟩

theorem witness_EveryStepKeepsInFollowingThePins : { portWork with inbox := [.word 0x200FF 0] }.Inv ∧
    { portWork with inbox := [.word 0x200FF 0] }.Silent ∧ portWork.cfg.portSleepGated = false ∧
    { portWork with inbox := [.word 0x200FF 0] }.InFollowsPins ∧
    ∃ t, step { portWork with inbox := [.word 0x200FF 0] } = .next t :=
  ⟨witness_EveryStepKeepsTheInvariant.1, rfl, rfl, witness_port.2.2.2.2.2.2.2, _, rfl⟩

/-- A CTRLA write, ACHAN, AREF, SLEEP and WAKE on a block whose evaluation faults on one of the two channels. -/
theorem witness_EvaluatingFormsEndInTheirInputFault :
    (let c := (acNoRef.setCtrla (0x01 &&& 0xF7)).setSuspended false
     acNoRef.Operating ∧ acNoRef.cfg.acSpan = 8 ∧ c.acEnable = true ∧
     (acNoRef.setCtrla (0x01 &&& 0xF7)).suspendedNow = false ∧ c.evalFault = some (.acInputUndefined .ref c)) ∧
    (acNoRef.acActive = true ∧ acNoRef.selects (.src 0) = true ∧
      (acNoRef.setChan 0 1).evalFault = some (.acInputUndefined .ref (acNoRef.setChan 0 1))) ∧
    (acNoSrc.Operating ∧ acNoSrc.acActive = true ∧ acNoSrc.selects .ref = true ∧
      (acNoSrc.setRef 1).evalFault = some (.acInputUndefined (.src 0) (acNoSrc.setRef 1))) ∧
    (let s := { acAsleep with ac := { acAsleep.ac with ref := none } }
     let c := { s with sleep := some 0, ac := { s.ac with suspended := false } }
     let d := { s with sleep := none, ac := { s.ac with suspended := false } }
     s.Operating ∧ s.ac.suspended = true ∧ s.acEnable = true ∧ (0 : SleepMode) ∈ s.cfg.sleepModes ∧
     s.cfg.suspends 0 s.acRunstdby = false ∧ c.evalFault = some (.acInputUndefined .ref c) ∧
     d.evalFault = some (.acInputUndefined .ref d)) :=
  ⟨⟨operating_of _ (by decide), rfl, rfl, rfl, rfl⟩, ⟨rfl, by decide, rfl⟩, ⟨operating_of _ (by decide), rfl, by decide, rfl⟩,
   operating_of _ (by decide), rfl, rfl, by decide, by decide, rfl, rfl⟩

theorem witness_SubscriberListsChangeOnlyAtInit :
    (let s := { hooked [] with init := .uninitialized }
     s.init = .uninitialized ∧ s.cfg.initOk = true ∧ s.cfg.hasPin 0 = true ∧ s.cfg.pinSubscribers[0].after ≠ []) ∧
    (hooked []).delivering = [] ∧ Instr.pinsetHigh 0 ≠ .init ∧ ∃ t, exec (.pinsetHigh 0) (hooked []) = .next t :=
  ⟨⟨rfl, by decide, rfl, by decide⟩, rfl, by decide, _, rfl⟩

theorem witness_UngatedPortIgnoresSleep : portWork.Silent ∧ portWork.cfg.portSleepGated = false ∧ fieldZ 0x204FF = false ∧
    fieldR 0x204FF = 0#2 ∧ ∃ t, exec (decode 0x204FF 0) portWork = .next t := ⟨rfl, rfl, by decide, by decide, _, rfl⟩

end Sys2Proof.Tests
end

section
/-! PROOFS. The step and the instruction of a word (O8), and what no transaction changes (O54). -/

namespace Sys2Proof.Machine

open Sys2Proof

/-! ## The word decoder and the instruction it names -/

/-- What R91 says of the transaction an instruction performs: a reserved encoding where there is none, else the check of
its region and offset. -/
def verdictOfInstr (c : Config) (i : Instr) : Except DecodeRefusal Request :=
  (requestOfInstr i).elim (.error .reservedEncoding) fun q => if Request.claimed c q then .ok q else .error .unclaimed

theorem verdictOfInstr_reserved {c : Config} {i : Instr} (h : requestOfInstr i = none) :
    verdictOfInstr c i = .error .reservedEncoding := by
  simp [verdictOfInstr, h]

theorem verdictOfInstr_some {c : Config} {i : Instr} {q : Request} (h : requestOfInstr i = some q) :
    verdictOfInstr c i = if Request.claimed c q then .ok q else .error .unclaimed := by
  simp [verdictOfInstr, h]

/-- R93, R99: every bus read of the PORT region is a read at the word's offset, whatever row the offset lies in. -/
theorem requestOfInstr_decodeRdPort (o : Byte) : requestOfInstr (decodeRdPort o) = some (.read .port o.toNat) := by
  unfold decodeRdPort
  split
  case h_19 => split_ifs <;> rfl
  all_goals simp only [requestOfInstr, *]

theorem requestOfInstr_decodeWrPort (o d : Byte) :
    requestOfInstr (decodeWrPort o d) = some (.write .port o.toNat d) := by
  unfold decodeWrPort
  split
  case h_19 => split_ifs <;> rfl
  all_goals simp only [requestOfInstr, *]

theorem requestOfInstr_decodeRdVport (o : Byte) : requestOfInstr (decodeRdVport o) = some (.read .vport o.toNat) := by
  unfold decodeRdVport
  split
  case h_5 => split_ifs <;> rfl
  all_goals simp only [requestOfInstr, *]

theorem requestOfInstr_decodeWrVport (o d : Byte) :
    requestOfInstr (decodeWrVport o d) = some (.write .vport o.toNat d) := by
  unfold decodeWrVport
  split
  case h_5 => split_ifs <;> rfl
  all_goals simp only [requestOfInstr, *]

theorem requestOfInstr_decodeRdAc (o : Byte) : requestOfInstr (decodeRdAc o) = some (.read .ac o.toNat) := by
  unfold decodeRdAc
  split
  case h_7 => split_ifs <;> rfl
  all_goals simp only [requestOfInstr, *]

theorem requestOfInstr_decodeWrAc (o d : Byte) : requestOfInstr (decodeWrAc o d) = some (.write .ac o.toNat d) := by
  unfold decodeWrAc
  split
  case h_7 => split_ifs <;> rfl
  all_goals simp only [requestOfInstr, *]

/-- R97, R98: an EVENT word with `W = 0` is the event R97 names or a reserved encoding. -/
theorem requestOfEvent_eq_verdict (c : Config) (o d : Byte) (u : Volt) :
    requestOfEvent o d u = verdictOfInstr c (decodeEvent o d u) := by
  unfold requestOfEvent decodeEvent
  split
  case h_1 =>
    cases PinState.ofCode (pinsetCode d) with
    | none => rfl
    | some st => cases st <;> rfl
  case h_11 => split_ifs <;> rfl
  all_goals rfl

/-- R91, R119: the decoder of R91 gives its verdict on the instruction the table decoder names. -/
theorem requestOfWord_eq_verdict (c : Config) (w : Tw20) (u : Volt) :
    requestOfWord c w u = verdictOfInstr c (decode w u) := by
  have hr : fieldR w = 0#2 ∨ fieldR w = 1#2 ∨ fieldR w = 2#2 ∨ fieldR w = 3#2 := by
    generalize fieldR w = r; revert r; decide
  unfold requestOfWord decode
  cases fieldZ w
  case true => rfl
  case false =>
    rcases hr with h | h | h | h <;> rw [h] <;> cases fieldW w
    · exact (verdictOfInstr_some (requestOfInstr_decodeRdPort _)).symm
    · exact (verdictOfInstr_some (requestOfInstr_decodeWrPort _ _)).symm
    · exact (verdictOfInstr_some (requestOfInstr_decodeRdVport _)).symm
    · exact (verdictOfInstr_some (requestOfInstr_decodeWrVport _ _)).symm
    · exact (verdictOfInstr_some (requestOfInstr_decodeRdAc _)).symm
    · exact (verdictOfInstr_some (requestOfInstr_decodeWrAc _ _)).symm
    · exact requestOfEvent_eq_verdict c _ _ u
    · rfl

theorem transact_of_not_claimed {q : Request} {s : State} (h : ¬ Request.claimed s.cfg q = true) :
    transact q s = .refused .unclaimed := if_neg h

/-- R91: the instruction of a word does what the word does as an input at the boundary. -/
theorem exec_decode (w : Tw20) (u : Volt) (s : State) : exec (decode w u) s = performInput (.word w u) s := by
  simp only [exec_eq, performInput, performInputWith, requestOf, requestOfWord_eq_verdict]
  cases h : requestOfInstr (decode w u) with
  | none => rw [verdictOfInstr_reserved h]; rfl
  | some q =>
    rw [verdictOfInstr_some h]
    by_cases hc : Request.claimed s.cfg q = true
    · rw [if_pos hc]; rfl
    · rw [if_neg hc]; exact transact_of_not_claimed hc

/-! ## The step -/

theorem step_word {s : State} {w : Tw20} {u : Volt} {rest : List Input} (h : s.inbox = .word w u :: rest) :
    step s = exec (decode w u) { s with inbox := rest } := by
  unfold step; rw [h]

/-- R13, R16: a step performs the first input at the boundary, a word through the instruction it decodes to. -/
theorem step_input {s : State} {x : Input} {rest : List Input} (h : s.inbox = x :: rest) :
    step s = performInput x { s with inbox := rest } := by
  cases x with
  | word w u => rw [step_word h, exec_decode]
  | load a width => unfold step; rw [h]
  | store a width v => unfold step; rw [h]
  | fetch a => unfold step; rw [h]

theorem withFetchWord_inbox (s : State) (n w : Nat) :
    (s.withFetchWord n w).inbox = .word (BitVec.ofNat 20 w) 0 :: s.inbox := rfl

/-- Settles O8: the words by the definition of the step, every other input and the words again through `exec_decode`,
which says that the two decoders agree. -/
theorem stepRunsTheDecodedInstruction : Obligations.StepRunsTheDecodedInstruction :=
  ⟨fun _ _ _ _ h => step_word h, fun _ _ _ h => step_input h, fun s n w => step_word (withFetchWord_inbox s n w)⟩

/-! ## What every transaction keeps of the state it began in -/

/-- `t` has the configuration and the claims of `s`, and its trace begins with that of `s`. -/
structure Extends (s t : State) : Prop where
  cfg : t.cfg = s.cfg
  claims : t.claims = s.claims
  trace : s.trace <+: t.trace

theorem Extends.refl (s : State) : Extends s s := ⟨rfl, rfl, [], List.append_nil _⟩

section

variable {s t u : State}

/-- An update that touches none of the three. -/
theorem Extends.update (h : Extends s t) (hc : u.cfg = t.cfg) (hl : u.claims = t.claims) (ht : u.trace = t.trace) :
    Extends s u := ⟨hc.trans h.cfg, hl.trans h.claims, ht ▸ h.trace⟩

/-- An update that appends events and touches neither the configuration nor the claims. -/
theorem Extends.append (h : Extends s t) (l : List Event) (hc : u.cfg = t.cfg) (hl : u.claims = t.claims)
    (ht : u.trace = t.trace ++ l) : Extends s u :=
  ⟨hc.trans h.cfg, hl.trans h.claims, ht ▸ h.trace.trans ⟨l, rfl⟩⟩

theorem Extends.ite {p : Prop} [Decidable p] (ht : Extends s t) (hu : Extends s u) :
    Extends s (if p then t else u) := by
  split
  · exact ht
  · exact hu

theorem Extends.emit (h : Extends s t) (e : Event) : Extends s (t.emit e) := h.append [e] rfl rfl rfl

theorem Extends.raisePort (h : Extends s t) : Extends s t.raisePort := h.append [_] rfl rfl rfl

theorem Extends.cancelPort (h : Extends s t) : Extends s t.cancelPort := h.append [_] rfl rfl rfl

theorem Extends.clearPort (h : Extends s t) : Extends s t.clearPort := h.append [_] rfl rfl rfl

theorem Extends.updateAcReq (h : Extends s t) : Extends s t.updateAcReq := by
  rw [State.updateAcReq_eq]; exact h.append _ rfl rfl rfl

theorem Extends.setSubscribers (h : Extends s t) (b : BusId) (l : List Subscriber) :
    Extends s (t.setSubscribers b l) :=
  h.update (t.setSubscribers_cfg b l) (t.setSubscribers_claims b l) (t.setSubscribers_trace b l)

theorem Extends.setIntflags (h : Extends s t) (v : Byte) : Extends s (t.setIntflags v) := h.update rfl rfl rfl

theorem Extends.flagPin (h : Extends s t) (i : PinIx) (c : Bool) : Extends s (t.flagPin i c) := by
  rcases t.flagPin_eq i c with e | ⟨-, -, e⟩ <;> rw [e]
  · exact h
  · exact (h.setIntflags _).raisePort

theorem Extends.levelCheck (h : Extends s t) (n : PinIx) : Extends s (t.levelCheck n) := by
  rcases t.levelCheck_eq n with e | ⟨-, -, -, e⟩ | ⟨-, e⟩ <;> rw [e]
  · exact h
  · exact (h.setIntflags _).raisePort
  · exact h.cancelPort

theorem Extends.levelCheckList (h : Extends s t) (m : Byte) (l : List PinIx) :
    Extends s (Machine.levelCheckList m l t) := by
  induction l generalizing t with
  | nil => exact h
  | cons i l ih => exact ih (.ite (h.levelCheck i) h)

theorem Extends.writeIntflags (h : Extends s t) {v : Byte} (e : Machine.writeIntflags v t = .next u) :
    Extends s u := by
  injection e with e
  subst e
  have cleared := h.setIntflags (clearOnes t.port.intflags (t.maskPins v))
  have cancelled := Extends.ite (p := (t.setIntflags (clearOnes t.port.intflags (t.maskPins v))).port.intflags = 0)
    cleared.cancelPort cleared
  exact .ite (cancelled.levelCheckList ..) cancelled

end

/-- Extending a given state is closed under the block's elementary updates: each sets other fields or appends events. -/
theorem closed_extends (s₀ : State) : Closed (fun _ s => Extends s₀ s) fun _ => True where
  emit _ _ e p := p.emit e
  popEnv _ _ _ _ p _ := p.update rfl rfl rfl
  push _ _ _ p _ := p.update rfl rfl rfl
  pop _ _ _ _ _ p _ := p.update rfl rfl rfl
  tag _ _ _ _ _ _ _ := trivial
  setPin _ _ _ _ p _ := p.update rfl rfl rfl
  setIn _ _ _ _ p _ := p.update rfl rfl rfl
  flagPin _ _ i c p _ := p.flagPin i c
  dir _ _ _ p _ := p.update rfl rfl rfl
  out _ _ _ p _ := p.update rfl rfl rfl
  intflags _ _ _ _ p e := p.writeIntflags e
  pinctrl _ s n v p _ := Extends.levelCheck (t := s.setPinctrl n v) (p.update rfl rfl rfl) n
  ctrla _ _ _ p := p.update rfl rfl rfl
  muxctrla _ _ _ p := p.update rfl rfl rfl
  intctrl _ _ _ p := Extends.updateAcReq (p.update rfl rfl rfl)
  status _ _ _ p := Extends.updateAcReq (.ite (p.update rfl rfl rfl) p)
  raw _ _ _ p _ := p.update rfl rfl rfl
  acOut _ _ _ p _ := p.update rfl rfl rfl
  flagAc _ _ p := Extends.updateAcReq (p.update rfl rfl rfl)
  sleep _ _ _ p _ := p.update rfl rfl rfl
  wake _ _ p := p.update rfl rfl rfl
  chan _ _ _ _ p := p.update rfl rfl rfl
  ref _ _ _ p := p.update rfl rfl rfl
  subscribe _ _ b _ p _ _ := p.setSubscribers b _
  unsubscribe _ _ b _ p _ := p.setSubscribers b _

/-- RESET extends the state it began in: its direct updates clear registers and append events. -/
theorem resetOp_keeps_extends (s₀ : State) {h : Handler} (hh : Handler.Keeps (fun _ s => Extends s₀ s) h)
    (d : List BusId) (s : State) : Kept (fun _ s => Extends s₀ s) d s (resetOp h s) :=
  (closed_extends s₀).reset hh (fun _ _ p => p.clearPort) (fun _ _ p => p.update rfl rfl rfl)
    (fun _ _ p => p.updateAcReq) (fun _ _ p => p.update rfl rfl rfl) d s

/-- A transaction of a live block extends the state it began in, whatever hooks outside the block do. -/
theorem transact_extends_of_live {q : Request} {s t : State} (l : s.Live) (e : transact q s = .next t) :
    Extends s t :=
  ((closed_extends s).transact (fun _ => resetOp_keeps_extends s) q [] s l (.refl s) t e).2

/-- R344: before INIT has succeeded only INIT is admitted. -/
theorem live_of_admission {st : State} {q : Request} (hq : q ≠ .init) (h : admission st.init q = none) : st.Live := by
  unfold State.Live
  cases hs : st.init with
  | uninitialized => simp [admission, hs, hq] at h
  | failed => simp [admission, hs] at h
  | initialized => exact .inl rfl
  | ready => exact .inr rfl

theorem transact_extends {q : Request} {s t : State} (hq : q ≠ .init) (e : transact q s = .next t) : Extends s t := by
  obtain ⟨-, ha, -⟩ := transact_next e
  exact transact_extends_of_live (live_of_admission hq ha) e

/-- INIT, performed or failed, changes neither the configuration nor the trace (R343). -/
theorem initOp_cfg_trace {s t : State} (e : initOp s = .next t) : t.cfg = s.cfg ∧ t.trace = s.trace := by
  unfold initOp at e
  split at e
  · injection e with e; subst e; exact ⟨rfl, rfl⟩
  · injection e with e; subst e; exact ⟨rfl, rfl⟩

theorem requestOfInstr_eq_init {i : Instr} : requestOfInstr i = some .init ↔ i = .init := by
  cases i <;> simp [requestOfInstr]

/-- Settles O54: INIT by its definition, every other transaction because extending the state it began in is a property
that the elementary updates keep (`closed_extends`), and so do RESET and every nested transaction. -/
theorem configurationClaimsAndTracePersist : Obligations.ConfigurationClaimsAndTracePersist := by
  intro i s t e
  obtain ⟨q, hq, e⟩ := exec_next e
  by_cases hi : i = .init
  · obtain rfl : q = .init := by rw [requestOfInstr_eq_init.2 hi] at hq; exact (Option.some.inj hq).symm
    obtain ⟨-, -, e⟩ := transact_next e
    obtain ⟨hcfg, htrace⟩ := initOp_cfg_trace e
    exact ⟨hcfg, fun h => absurd hi h, [], by rw [htrace, List.append_nil]⟩
  · have hext : Extends s t := by
      refine transact_extends ?_ e
      rintro rfl
      exact hi (requestOfInstr_eq_init.1 hq)
    obtain ⟨l, hl⟩ := hext.trace
    exact ⟨hext.cfg, fun _ => hext.claims, l, hl.symm⟩

end Sys2Proof.Machine
end

section
/-! PROOFS. The block at reset (O10, O55). -/

namespace Sys2Proof.Machine

open Sys2Proof

theorem resetWith_pinctrl (c : Config) (i : PinIx) : (State.resetWith c).pinctrl i = 0 := by
  simp [State.pinctrl, State.resetWith, PortRegs.reset]

theorem resetWith_pin (c : Config) (i : PinIx) :
    (State.resetWith c).pin i = if c.hasPin i then some .floating else none := by
  simp [State.pin, State.resetWith]

theorem resetWith_acStatus (c : Config) : (State.resetWith c).acStatus = 0 := by
  simp [State.acStatus, State.resetWith, AcState.reset]

/-- Settles O10: every field by the definition of `State.resetWith`, the pins and PINnCTRL by their own lemmas. -/
theorem resetStateHoldsTheResetValues : Obligations.ResetStateHoldsTheResetValues := fun c =>
  ⟨rfl, rfl, rfl, rfl, rfl, resetWith_pinctrl c, resetWith_pin c, rfl, rfl, rfl, rfl, resetWith_acStatus c, rfl, rfl, rfl,
    rfl⟩

theorem resetWith_portOk (c : Config) : (State.resetWith c).PortOk where
  dir := BitVec.zero_and
  out := BitVec.zero_and
  inp := BitVec.zero_and
  intflags := BitVec.zero_and
  pinctrl i _ := resetWith_pinctrl c i
  portReq := rfl

theorem resetWith_acOk (c : Config) : (State.resetWith c).AcOk where
  ctrla := BitVec.zero_and
  muxctrla := BitVec.zero_and
  intctrl := BitVec.zero_and
  suspended := rfl
  acReq := rfl

theorem resetWith_inv {c : Config} (h : c.initOk = true) : (State.resetWith c).Inv where
  delivering := rfl
  chan := chanWf_reset c
  absentPins i hi := (resetWith_pin c i).trans (if_neg (Bool.eq_false_iff.1 hi))
  registered _ := ⟨h, rfl, rfl⟩
  port _ := resetWith_portOk c
  ac _ := resetWith_acOk c
  pins _ i hi := Option.isSome_of_eq_some ((resetWith_pin c i).trans (if_pos hi))

theorem conventional_initOk : Config.conventional.initOk = true := by decide

/-- Settles O55: the reset state of a configuration that INIT accepts has the invariant, and INIT accepts the
conventional one. -/
theorem resetHasTheInvariant : Obligations.ResetHasTheInvariant :=
  ⟨resetWith_inv conventional_initOk, fun _ h => resetWith_inv h⟩

end Sys2Proof.Machine
end

section
/-! PROOFS. What an operation does to properties of the PORT side, by groups of its elementary updates. `Closed` speaks of
every update at once and lets the port's hook be called for any pin that some list names, also a list that a hook outside
has changed while its bus delivers. Here the hook is called only from a bus that is not delivering (R130, R135), so that
R30's masks of IN and INTFLAGS can be followed; and a property that one register write breaks can still be followed
through all the others. -/

namespace Sys2Proof.Machine

open Sys2Proof

/-! ## Updates that leave the PORT alone -/

/-- Only the comparator, its request line, the sleep mode and the trace differ, and `ac.chan` stays canonical. -/
structure OnlyAcDiffers (s t : State) : Prop where
  rest : t = { s with ac := t.ac, acReq := t.acReq, sleep := t.sleep, trace := t.trace }
  chan : chanWf s.ac.chan = true → chanWf t.ac.chan = true

section

variable {s t u : State}

theorem OnlyAcDiffers.trans (h : OnlyAcDiffers s t) (k : OnlyAcDiffers t u) : OnlyAcDiffers s u :=
  ⟨by rw [k.rest, h.rest], k.chan ∘ h.chan⟩

theorem OnlyAcDiffers.live (h : OnlyAcDiffers s t) (l : s.Live) : t.Live := by rw [h.rest]; exact l

theorem onlyAcDiffers_emit (s : State) (e : Event) : OnlyAcDiffers s (s.emit e) := ⟨rfl, id⟩

theorem onlyAcDiffers_emitAll (s : State) (l : List Event) : OnlyAcDiffers s (s.emitAll l) := ⟨rfl, id⟩

theorem onlyAcDiffers_updateAcReq (s : State) : OnlyAcDiffers s s.updateAcReq := by
  rw [State.updateAcReq_eq]; exact ⟨rfl, id⟩

theorem onlyAcDiffers_setChan (s : State) (k : SourceId) (u : Volt) : OnlyAcDiffers s (s.setChan k u) :=
  ⟨rfl, chanWf_chanSet _ _ _⟩

/-! ## Updates of INTFLAGS and the request line -/

/-- Only INTFLAGS, the PORT request line and the trace differ. -/
def OnlyFlagsDiffer (s t : State) : Prop :=
  t = { s with port := { s.port with intflags := t.port.intflags }, portReq := t.portReq, trace := t.trace }

theorem OnlyFlagsDiffer.refl (s : State) : OnlyFlagsDiffer s s := rfl

theorem OnlyFlagsDiffer.trans (h : OnlyFlagsDiffer s t) (k : OnlyFlagsDiffer t u) : OnlyFlagsDiffer s u := by
  unfold OnlyFlagsDiffer at *; rw [k, h]

theorem OnlyFlagsDiffer.ite {p : Prop} [Decidable p] (ht : OnlyFlagsDiffer s t) (hu : OnlyFlagsDiffer s u) :
    OnlyFlagsDiffer s (if p then t else u) := by
  split
  · exact ht
  · exact hu

theorem onlyFlagsDiffer_raise (s : State) (v : Byte) : OnlyFlagsDiffer s (s.setIntflags v).raisePort := rfl

theorem onlyFlagsDiffer_flagPin (s : State) (i : PinIx) (c : Bool) : OnlyFlagsDiffer s (s.flagPin i c) := by
  rcases s.flagPin_eq i c with e | ⟨-, -, e⟩ <;> rw [e]
  · exact .refl s
  · exact onlyFlagsDiffer_raise s _

theorem onlyFlagsDiffer_levelCheck (s : State) (i : PinIx) : OnlyFlagsDiffer s (s.levelCheck i) := by
  rcases s.levelCheck_eq i with e | ⟨-, -, -, e⟩ | ⟨-, e⟩ <;> rw [e]
  · exact .refl s
  · exact onlyFlagsDiffer_raise s _
  · rfl

theorem onlyFlagsDiffer_levelCheckList (m : Byte) (l : List PinIx) (s : State) :
    OnlyFlagsDiffer s (levelCheckList m l s) := by
  induction l generalizing s with
  | nil => exact .refl s
  | cons i l ih => exact (OnlyFlagsDiffer.ite (onlyFlagsDiffer_levelCheck s i) (.refl s)).trans (ih _)

/-- INTFLAGS with the pins of `m` cleared, and the request cancelled where no flag is left (R180). -/
def State.acknowledge (s : State) (m : Byte) : State :=
  let cleared := s.setIntflags (clearOnes s.port.intflags m)
  if cleared.port.intflags = 0 then cleared.cancelPort else cleared

/-- A write to INTFLAGS acknowledges, and then checks the levels of the acknowledged pins where the parameter says so
(R180, R8). -/
theorem writeIntflags_eq (v : Byte) (s : State) :
    writeIntflags v s = .next (if s.cfg.levelReassertOnClear
      then levelCheckList (s.maskPins v) pinOrder (s.acknowledge (s.maskPins v))
      else s.acknowledge (s.maskPins v)) := rfl

theorem onlyFlagsDiffer_acknowledge (s : State) (m : Byte) : OnlyFlagsDiffer s (s.acknowledge m) :=
  .ite rfl rfl

theorem onlyFlagsDiffer_writeIntflags {v : Byte} (e : writeIntflags v s = .next t) : OnlyFlagsDiffer s t := by
  rw [writeIntflags_eq] at e
  injection e with e
  subst e
  have ack := onlyFlagsDiffer_acknowledge s (s.maskPins v)
  exact .ite (ack.trans (onlyFlagsDiffer_levelCheckList _ _ _)) ack

end

/-! ## The writes of the PORT -/

/-- The PORT register that a VPORT register mirrors (R200). -/
def mirroredReg : VportReg → PortReg
  | .dir => .dir
  | .out => .out
  | .inp => .inp
  | .intflags => .intflags
  | .reserved => .reserved

theorem vportWrite_eq (h : Handler) (reg : VportReg) (v : Byte) (s : State) :
    vportWrite h reg v s = portWrite h (mirroredReg reg) v s := by
  cases reg <;> rfl

theorem mirroredReg_eq_intflags {reg : VportReg} (h : mirroredReg reg = .intflags) : reg = .intflags := by
  cases reg with
  | intflags => rfl
  | _ => cases h

/-- `q` is a bus write of `v` to INTFLAGS, at its PORT or at its VPORT offset. -/
def Acknowledges (c : Config) (q : Request) (v : Byte) : Prop :=
  (∃ off, q = .write .port off v ∧ c.portReg off = .intflags) ∨
  ∃ off, q = .write .vport off v ∧ vportReg off = .intflags

/-- A write to a PORT register re-drives the pins after a change of DIR or OUT that stays within `PIN_MASK`, writes INTFLAGS
or PINnCTRL, or does nothing (R171 to R182). -/
theorem portWrite_cases (h : Handler) (reg : PortReg) (v : Byte) (s : State) :
    (∃ w, (s.port.dir &&& ~~~s.cfg.pinMask = 0 → w &&& ~~~s.cfg.pinMask = 0) ∧
      portWrite h reg v s = redriveAll h (s.setDir w)) ∨
    (∃ w, (s.port.out &&& ~~~s.cfg.pinMask = 0 → w &&& ~~~s.cfg.pinMask = 0) ∧
      portWrite h reg v s = redriveAll h (s.setOut w)) ∨
    (reg = .intflags ∧ portWrite h reg v s = writeIntflags v s) ∨
    (∃ n, portWrite h reg v s = writePinctrl h n v s) ∨
    portWrite h reg v s = .next s := by
  have hm := maskPins_within s v
  cases reg with
  | dir => exact .inl ⟨_, fun _ => hm, rfl⟩
  | dirset => exact .inl ⟨_, fun h0 => within_or h0 hm, rfl⟩
  | dirclr => exact .inl ⟨_, fun h0 => masked_clearOnes (w := s.maskPins v) h0, rfl⟩
  | dirtgl => exact .inl ⟨_, fun h0 => within_xor h0 hm, rfl⟩
  | out => exact .inr (.inl ⟨_, fun _ => hm, rfl⟩)
  | outset => exact .inr (.inl ⟨_, fun h0 => within_or h0 hm, rfl⟩)
  | outclr => exact .inr (.inl ⟨_, fun h0 => masked_clearOnes (w := s.maskPins v) h0, rfl⟩)
  | outtgl => exact .inr (.inl ⟨_, fun h0 => within_xor h0 hm, rfl⟩)
  | intflags => exact .inr (.inr (.inl ⟨rfl, rfl⟩))
  | pinctrl n => exact .inr (.inr (.inr (.inl ⟨n, rfl⟩)))
  | inp => exact .inr (.inr (.inr (.inr rfl)))
  | reserved => exact .inr (.inr (.inr (.inr rfl)))

/-- A write to PINnCTRL stores the byte and checks the level, and then drives the pin unless a gated port's outputs are
frozen (R181, R183, R184, R230); on an absent pin it does nothing. -/
theorem writePinctrl_next {h : Handler} {n : PinIx} {v : Byte} {s t : State} (e : writePinctrl h n v s = .next t) :
    t = s ∨ s.cfg.hasPin n = true ∧
      (t = (s.setPinctrl n v).levelCheck n ∨
        drive h n (((s.setPinctrl n v).levelCheck n).drivenState n) ((s.setPinctrl n v).levelCheck n) = .next t) := by
  unfold writePinctrl at e
  split at e
  · rename_i hp
    dsimp only at e
    split at e
    · exact .inr ⟨hp, .inr e⟩
    · injection e with e; exact .inr ⟨hp, .inl e.symm⟩
  · injection e with e; exact .inl e.symm

/-- A bus write outside the AC region that answers a next state did nothing, or wrote a PORT register (R153, R157). -/
theorem busWrite_port_next {h : Handler} {r : Region} {off : Nat} {v : Byte} {s t : State} (hr : r ≠ .ac)
    (e : busWrite h r off v s = .next t) :
    t = s ∨ ∃ reg, (reg = .intflags → Acknowledges s.cfg (.write r off v) v) ∧
      portWrite h reg v s = .next t := by
  obtain ⟨c, -, e⟩ := busWrite_next e
  cases ho : c.owner <;> rw [ho] at e <;> cases r
  case port.port => exact .inr ⟨_, fun hi => .inl ⟨off, rfl, hi⟩, e⟩
  case port.vport =>
    exact .inr ⟨_, fun hi => .inr ⟨off, rfl, mirroredReg_eq_intflags hi⟩, (vportWrite_eq h _ v s).symm.trans e⟩
  case ac.port => injection e with e; exact .inl e.symm
  case ac.vport => injection e with e; exact .inl e.symm
  all_goals exact absurd rfl hr

/-! ## Deliveries and the comparator -/

/-- A property that says nothing of the comparator, the sleep mode and the trace, and that a delivery keeps whose outside
hooks issue their transactions through `h`. -/
structure KeptByDelivery (P : List BusId → State → Prop) (h : Handler) : Prop where
  ac : ∀ {d s t}, OnlyAcDiffers s t → P d s → P d t
  call : ∀ bus id p tag d s, Kept P d s (callOutside h bus id p tag s)
  push : ∀ d s b, P d s → b ∉ s.delivering → P (b :: d) { s with delivering := b :: s.delivering }
  pop : ∀ d s0 s b, P d s0 → P (b :: d) s → s.subscribers b = s0.subscribers b →
    P d { s with delivering := s.delivering.erase b }

/-- What driving a pin does of itself keeps the property; `Tag k` says that the port's hook can be called for pin `k`. -/
structure KeptByPins (P : List BusId → State → Prop) (Tag : PinIx → Prop) : Prop where
  tag : ∀ d s i k, P d s → BusId.pin i ∉ s.delivering → Subscriber.port k ∈ s.subscribers (.pin i) → Tag k
  setPin : ∀ d s i st, P d s → s.cfg.hasPin i = true → P d (s.setPin i st)
  setIn : ∀ d s i b, P d s → Tag i → P d (s.setIn (withBit s.port.inp i b))
  flagPin : ∀ d s i c, P d s → Tag i → P d (s.flagPin i c)

/-- The writes to DIR, OUT and PINnCTRL keep the property. -/
structure KeptByRegisters (P : List BusId → State → Prop) : Prop where
  dir : ∀ d s v, P d s → (s.port.dir &&& ~~~s.cfg.pinMask = 0 → v &&& ~~~s.cfg.pinMask = 0) → P d (s.setDir v)
  out : ∀ d s v, P d s → (s.port.out &&& ~~~s.cfg.pinMask = 0 → v &&& ~~~s.cfg.pinMask = 0) → P d (s.setOut v)
  pinctrl : ∀ d s n v, P d s → s.cfg.hasPin n = true → P d ((s.setPinctrl n v).levelCheck n)

section

variable {P : List BusId → State → Prop} {Tag : PinIx → Prop} {h : Handler} {d : List BusId} {s t : State}

theorem kept_self (P : List BusId → State → Prop) (d : List BusId) (s : State) : Kept P d s (.next s) :=
  kept_next id id

theorem KeptByDelivery.update (hc : KeptByDelivery P h) (ht : OnlyAcDiffers s t) : Kept P d s (.next t) :=
  kept_next ht.live (hc.ac ht)

/-- An update of the comparator, and then an operation that keeps the property. -/
theorem KeptByDelivery.after (hc : KeptByDelivery P h) {r : Res} (ht : OnlyAcDiffers s t) (hk : Kept P d t r) :
    Kept P d s r := fun l p => hk (ht.live l) (hc.ac ht p)

theorem KeptByDelivery.kept_signalRaise (hc : KeptByDelivery P h) {call : Subscriber → State → Res} {bus : BusId}
    (hk : bus ∉ s.delivering → ∀ x ∈ s.subscribers bus, ∀ u, Kept P (bus :: d) u (call x u)) :
    Kept P d s (signalRaise call bus s) := by
  intro l p t e
  obtain ⟨hb, u, hu, rfl⟩ := signalRaise_next e
  obtain ⟨lu, pu⟩ := deliver_keeps (hk hb) _ (by exact l) (hc.push d s bus p hb) u hu
  exact ⟨lu, hc.pop d s u bus p pu (deliver_list hu rfl)⟩

theorem KeptByDelivery.kept_raiseOutside (hc : KeptByDelivery P h) (bus : BusId) (id : SignalId) (p : Payload)
    (d : List BusId) (s : State) : Kept P d s (raiseOutside h bus id p s) :=
  hc.kept_signalRaise fun _ x _ u => by
    cases x with
    | port k => exact kept_self P _ u
    | ext k tag => exact hc.call bus id p tag _ u

theorem KeptByDelivery.kept_publishOutput (hc : KeptByDelivery P h) (new : Bool) (d : List BusId) (s : State) :
    Kept P d s (publishOutput h new s) := by
  intro l p t e
  rcases publishOutput_next e with ⟨-, rfl⟩ | ⟨-, u, hu, rfl⟩
  · exact ⟨l, p⟩
  · obtain ⟨lu, pu⟩ := hc.after (t := s.setAcOut new) ⟨rfl, id⟩ (hc.kept_raiseOutside _ _ _ d _) l p u hu
    split
    · have flagged : OnlyAcDiffers u (u.setCmp true).updateAcReq :=
        OnlyAcDiffers.trans (t := u.setCmp true) ⟨rfl, id⟩ (onlyAcDiffers_updateAcReq _)
      exact ⟨flagged.live lu, hc.ac flagged pu⟩
    · exact ⟨lu, pu⟩

theorem KeptByDelivery.kept_acEval (hc : KeptByDelivery P h) (d : List BusId) (s : State) :
    Kept P d s (acEval h s) := by
  intro l p t e
  rcases acEval_next e with ⟨-, rfl⟩ | ⟨-, vp, vn, -, -, e⟩
  · exact ⟨l, p⟩
  · exact hc.after (t := s.setRaw (s.rawAfter vp vn)) ⟨rfl, id⟩ (hc.kept_publishOutput _ d _) l p t e

theorem KeptByDelivery.kept_recomputeSuspended (hc : KeptByDelivery P h) (d : List BusId) (s : State) :
    Kept P d s (recomputeSuspended h s) := by
  intro l p t e
  rcases recomputeSuspended_next e with ⟨-, -, e⟩ | ⟨-, rfl⟩
  · exact hc.after (t := s.setSuspended s.suspendedNow) ⟨rfl, id⟩ (hc.kept_acEval d _) l p t e
  · exact hc.update (t := s.setSuspended s.suspendedNow) ⟨rfl, id⟩ l p _ rfl

theorem KeptByDelivery.kept_acWrite (hc : KeptByDelivery P h) (reg : AcReg) (v : Byte) (d : List BusId) (s : State) :
    Kept P d s (acWrite h reg v s) := by
  cases reg with
  | ctrla =>
    exact hc.after (t := s.setCtrla (v &&& ctrlaMask)) ⟨rfl, id⟩
      (kept_andThen (hc.kept_recomputeSuspended d _) (hc.kept_acEval d))
  | muxctrla => exact hc.after (t := s.setMuxctrla (v &&& muxctrlaMask)) ⟨rfl, id⟩ (hc.kept_acEval d _)
  | intctrl =>
    exact hc.update (OnlyAcDiffers.trans (t := s.setIntctrl (v &&& intctrlMask)) ⟨rfl, id⟩
      (onlyAcDiffers_updateAcReq _))
  | status =>
    have cleared : OnlyAcDiffers s (if v.getLsbD 0 then s.setCmp false else s) := by
      split <;> exact ⟨rfl, id⟩
    exact hc.update (cleared.trans (onlyAcDiffers_updateAcReq _))
  | reserved => exact kept_self P d s

theorem KeptByDelivery.kept_acReset (hc : KeptByDelivery P h) (d : List BusId) (s : State) :
    Kept P d s (acReset h s) := by
  have published : ∀ u, Kept P d u (.next u.updateAcReq) := fun u => hc.update (onlyAcDiffers_updateAcReq u)
  refine hc.after (t := s.clearAc) ⟨rfl, id⟩ (kept_andThen ?_ published)
  split
  · exact hc.after (t := s.clearAc.setAcOut false) ⟨rfl, id⟩ (hc.kept_raiseOutside _ _ _ d _)
  · exact kept_self P d s.clearAc

/-- A transaction that has no business with the PORT: every one but its writes, PINSET, RESET and INIT. -/
def sparesPort : Request → Bool
  | .write r _ _ => r == .ac
  | .pinset _ _ | .reset | .init => false
  | _ => true

theorem KeptByDelivery.kept_sparing (hc : KeptByDelivery P h) {q : Request} (hq : sparesPort q = true) (d : List BusId)
    (s : State) : Kept P d s (performAdmitted h q s) := by
  cases q with
  | read r off =>
    intro l p t e
    obtain ⟨b, -, rfl⟩ := busRead_next e
    exact ⟨l, hc.ac (onlyAcDiffers_emit s _) p⟩
  | write r off v =>
    obtain rfl : r = .ac := by simpa [sparesPort] using hq
    intro l p t e
    obtain ⟨c, -, e⟩ := busWrite_next e
    cases ho : c.owner
    · rw [ho] at e; exact kept_self P d s l p t e
    · rw [ho] at e; exact hc.kept_acWrite _ v d s l p t e
  | pinset n st => cases hq
  | reset => cases hq
  | init => cases hq
  | sleep m =>
    show Kept P d s (sleepOp h m s)
    unfold sleepOp
    split
    · exact hc.after (t := { s with sleep := some m }) ⟨rfl, id⟩ (hc.kept_recomputeSuspended d _)
    · intro _ _ _ e; cases e
  | wake =>
    refine hc.after (t := { s with sleep := none }) ⟨rfl, id⟩ (?_ : Kept P d _ (wakeOp h s))
    unfold wakeOp
    dsimp only
    split
    · exact hc.after (t := State.setSuspended { s with sleep := none } false) ⟨rfl, id⟩ (hc.kept_acEval d _)
    · exact kept_self P d _
  | achan k u =>
    refine hc.after (onlyAcDiffers_setChan s k u) (?_ : Kept P d _ (achanOp h k u s))
    unfold achanOp
    dsimp only
    split
    · exact hc.kept_acEval d _
    · exact kept_self P d _
  | aref u =>
    refine hc.after (t := s.setRef u) ⟨rfl, id⟩ (?_ : Kept P d _ (arefOp h u s))
    unfold arefOp
    dsimp only
    split
    · exact hc.kept_acEval d _
    · exact kept_self P d _
  | getAcOut => exact hc.update (onlyAcDiffers_emit s _)
  | getAcRef =>
    show Kept P d s (getAcRefOp s)
    unfold getAcRefOp
    split
    · intro _ _ _ e; cases e
    · exact hc.update (onlyAcDiffers_emit s _)
  | getPortSignal => exact hc.update (onlyAcDiffers_emit s _)

/-! ## Drives -/

theorem KeptByDelivery.kept_portHook (hc : KeptByDelivery P h) (hp : KeptByPins P Tag) (st : PinState) {i : PinIx}
    (ht : Tag i) (d : List BusId) (s : State) : Kept P d s (portHook h st i s) := by
  intro l p t e
  rcases portHook_next e with ⟨-, rfl⟩ | ⟨-, -, rfl⟩ | ⟨-, -, u, hu, rfl⟩
  · exact ⟨l, hc.ac (onlyAcDiffers_emit s _) p⟩
  · exact ⟨l, p⟩
  · obtain ⟨lu, pu⟩ : u.Live ∧ P d u := by
      rcases hu with ⟨-, rfl⟩ | ⟨-, hu⟩
      · exact ⟨l, p⟩
      · exact hc.kept_raiseOutside _ _ _ d _ (by exact l) (hp.setIn d s i _ p ht) u hu
    exact ⟨live_flagPin u i _ lu, hp.flagPin d u i _ pu ht⟩

/-- The raise of a drive: the port's hook is called from a list whose bus was not delivering (R130, R135). -/
theorem KeptByDelivery.kept_raisePin (hc : KeptByDelivery P h) (hp : KeptByPins P Tag) (i : PinIx) (st : PinState)
    (d : List BusId) (s : State) : Kept P d s (signalRaise (callPinHook h i st) (.pin i) s) := by
  intro l p
  refine hc.kept_signalRaise (fun hb x hx u => ?_) l p
  cases x with
  | port k => exact hc.kept_portHook hp st (hp.tag d s i k p hb hx) _ u
  | ext k tag => exact hc.call _ _ _ tag _ u

theorem KeptByDelivery.kept_drive (hc : KeptByDelivery P h) (hp : KeptByPins P Tag) {i : PinIx} (st : PinState)
    (d : List BusId) {s : State} (hi : s.cfg.hasPin i = true) : Kept P d s (drive h i st s) := by
  intro l p t e
  rcases drive_next e with ⟨-, rfl⟩ | ⟨-, e⟩
  · exact ⟨l, p⟩
  · exact hc.kept_raisePin hp i st d _ (by exact l) (hp.setPin d s i st p hi) t e

theorem KeptByDelivery.kept_redriveList (hc : KeptByDelivery P h) (hp : KeptByPins P Tag) (l : List PinIx)
    (d : List BusId) (s : State) : Kept P d s (redriveList h l s) := by
  induction l generalizing s with
  | nil => exact kept_self P d s
  | cons i l ih =>
    refine kept_andThen ?_ ih
    split
    · exact hc.kept_drive hp _ d ‹_›
    · exact kept_self P d s

theorem KeptByDelivery.kept_redriveAll (hc : KeptByDelivery P h) (hp : KeptByPins P Tag) (d : List BusId) (s : State) :
    Kept P d s (redriveAll h s) := by
  unfold redriveAll
  split
  · exact hc.kept_redriveList hp pinOrder d s
  · exact kept_self P d s

/-! ## Transactions -/

theorem KeptByDelivery.kept_portWrite (hc : KeptByDelivery P h) (hp : KeptByPins P Tag) (hg : KeptByRegisters P)
    {reg : PortReg} {v : Byte} (hi : reg = .intflags → Kept P d s (writeIntflags v s)) :
    Kept P d s (portWrite h reg v s) := by
  intro l p
  rcases portWrite_cases h reg v s with ⟨w, hw, e⟩ | ⟨w, hw, e⟩ | ⟨hr, e⟩ | ⟨n, e⟩ | e <;> rw [e]
  · exact hc.kept_redriveAll hp d _ (by exact l) (hg.dir d s w p hw)
  · exact hc.kept_redriveAll hp d _ (by exact l) (hg.out d s w p hw)
  · exact hi hr l p
  · intro t e
    rcases writePinctrl_next e with rfl | ⟨hn, e⟩
    · exact ⟨l, p⟩
    · have lu := live_levelCheck (s.setPinctrl n v) n l
      have pu := hg.pinctrl d s n v p hn
      rcases e with rfl | e
      · exact ⟨lu, pu⟩
      · exact hc.kept_drive hp _ d (by rw [cfg_levelCheck]; exact hn) lu pu t e
  · exact kept_self P d s l p

/-- Every admitted transaction but INIT; what RESET and a write to INTFLAGS do to the property is asked for only where the
transaction is one. -/
theorem KeptByDelivery.kept_performAdmitted (hc : KeptByDelivery P h) (hp : KeptByPins P Tag) (hg : KeptByRegisters P)
    {q : Request} (hq : q ≠ .init) (hi : ∀ v, Acknowledges s.cfg q v → Kept P d s (writeIntflags v s))
    (hr : q = .reset → Kept P d s (resetOp h s)) : Kept P d s (performAdmitted h q s) := by
  by_cases hsp : sparesPort q = true
  · exact hc.kept_sparing hsp d s
  · cases q with
    | write r off v =>
      intro l p t e
      have hne : r ≠ .ac := fun h0 => hsp (by rw [h0]; rfl)
      rcases busWrite_port_next hne e with rfl | ⟨reg, hreg, e⟩
      · exact ⟨l, p⟩
      · exact hc.kept_portWrite hp hg (fun h0 => hi v (hreg h0)) l p t e
    | pinset n st =>
      show Kept P d s (pinsetOp h n st s)
      unfold pinsetOp
      split
      · exact hc.kept_drive hp st d ‹_›
      · intro _ _ _ e; cases e
    | reset => exact hr rfl
    | init => exact absurd rfl hq
    | _ => exact absurd rfl hsp

/-- RESET leaves a property that holds once the PORT is cleared (R340). -/
theorem KeptByDelivery.resetOp_establishes (hc : KeptByDelivery P h) (hp : KeptByPins P Tag)
    (hready : ∀ s, P d s → P d { s with init := .ready }) (l : s.Live) (p : P d s.clearPort)
    (e : resetOp h s = .next t) : t.Live ∧ P d t := by
  obtain ⟨u, v, hu, hv, rfl⟩ := resetOp_next e
  obtain ⟨lu, pu⟩ := hc.kept_redriveList hp pinOrder d _ (by exact l) p u hu
  exact ⟨.inr rfl, hready v (hc.kept_acReset d u lu pu v hv).2⟩

end

/-! ## Nesting -/

/-- A property of the PORT side that every elementary update keeps, the list changes of outside hooks included. -/
structure PortClosed (P : List BusId → State → Prop) (Tag : PinIx → Prop) : Prop
    extends KeptByPins P Tag, KeptByRegisters P where
  ac : ∀ {d s t}, OnlyAcDiffers s t → P d s → P d t
  push : ∀ d s b, P d s → b ∉ s.delivering → P (b :: d) { s with delivering := b :: s.delivering }
  pop : ∀ d s0 s b, P d s0 → P (b :: d) s → s.subscribers b = s0.subscribers b →
    P d { s with delivering := s.delivering.erase b }
  popEnv : ∀ d s rest, P d s → P d { s with env := rest }
  intflags : ∀ d s v t, P d s → writeIntflags v s = .next t → P d t
  setSubscribers : ∀ d s b l, P d s → b ∈ s.delivering → P d (s.setSubscribers b l)

section

variable {P : List BusId → State → Prop} {Tag : PinIx → Prop}

theorem PortClosed.keptByDelivery (hc : PortClosed P Tag) {h : Handler} (hh : Handler.Keeps P h) :
    KeptByDelivery P h where
  ac := hc.ac
  push := hc.push
  pop := hc.pop
  call bus id p tag d s l q t e := by
    rcases callOutside_next e with ⟨-, rfl⟩ | ⟨r, rest, -, e⟩
    · exact ⟨l, hc.ac (onlyAcDiffers_emit s _) q⟩
    · exact runActions_keeps hh r d _ (by exact l) (hc.popEnv d _ rest (hc.ac (onlyAcDiffers_emit s _) q)) t e

theorem PortClosed.kept_transactWith (hc : PortClosed P Tag) {h : Handler} (hh : Handler.Keeps P h)
    (hr : ∀ d s, Kept P d s (resetOp h s)) (q : Request) (d : List BusId) (s : State) :
    Kept P d s (transactWith h q s) := by
  intro l p t e
  obtain ⟨-, ha, e⟩ := transactWith_next e
  have hq : q ≠ .init := by rintro rfl; rcases l with l | l <;> simp [admission, l] at ha
  exact (hc.keptByDelivery hh).kept_performAdmitted hc.toKeptByPins hc.toKeptByRegisters hq
    (fun v _ l p t e => ⟨live_writeIntflags l e, hc.intflags d s v t p e⟩) (fun _ => hr d s) l p t e

/-- Hooks outside the block keep a property that RESET keeps, at every level of nesting. -/
theorem PortClosed.handlerAt_keeps (hc : PortClosed P Tag)
    (hr : ∀ h, Handler.Keeps P h → ∀ d s, Kept P d s (resetOp h s)) (n : Nat) : Handler.Keeps P (handlerAt n) := by
  induction n with
  | zero => intro a d s t _ _ e; cases e
  | succ n ih =>
    intro a d s t l p e
    have setList : ∀ b k, b ∈ s.delivering → (s.setSubscribers b k).Live ∧ P d (s.setSubscribers b k) :=
      fun b k hb => ⟨by unfold State.Live at *; simpa using l, hc.setSubscribers d s b k p hb⟩
    rcases act_next (h := handlerAt n) e with ⟨x, -, e⟩ | ⟨b, x, -, hb, -, rfl⟩ | ⟨b, hook, -, hb, -, rfl⟩
    · obtain ⟨q, -, e⟩ := performInputWith_next e
      exact hc.kept_transactWith ih (hr _ ih) q d s l p t e
    · exact setList b _ hb
    · exact setList b _ hb

theorem PortClosed.kept_transact (hc : PortClosed P Tag)
    (hr : ∀ h, Handler.Keeps P h → ∀ d s, Kept P d s (resetOp h s)) (q : Request) (d : List BusId) (s : State) :
    Kept P d s (transact q s) :=
  have hh := hc.handlerAt_keeps hr nestDepth
  hc.kept_transactWith hh (hr _ hh) q d s

end

end Sys2Proof.Machine
end

section
/-! PROOFS. What every transaction keeps of pins, subscriber lists and delivered values (O59), and the invariant (O56). -/

namespace Sys2Proof.Machine

open Sys2Proof

/-! ## Pins, subscriber lists and delivered values -/

theorem subscribers_congr {s t : State} (h : t.subs = s.subs) (b : BusId) : t.subscribers b = s.subscribers b := by
  cases b <;> simp only [State.subscribers, h]

theorem buses_ext {a b : Buses} (hpin : a.pin = b.pin) (hport : a.portValue = b.portValue) (hac : a.acOut = b.acOut) :
    a = b := by
  cases a; cases b; cases hpin; cases hport; cases hac; rfl

theorem subs_eq_of_subscribers {s t : State} (h : ∀ b, t.subscribers b = s.subscribers b) : t.subs = s.subs :=
  buses_ext (Vector.ext fun i hi => h (.pin ⟨i, hi⟩)) (h .portValue) (h .acOut)

/-- What a transaction keeps of the state `s0` it began in, while the buses `d` deliver: the list of every other bus, the
canonical form of `ac.chan`, the state of the absent pins, and that a pin has a state. -/
structure Preserves (s0 : State) (d : List BusId) (s : State) : Prop where
  cfg : s.cfg = s0.cfg
  delivering : s.delivering = d
  lists : ∀ b, b ∉ d → s.subscribers b = s0.subscribers b
  chan : chanWf s0.ac.chan = true → chanWf s.ac.chan = true
  absent : ∀ i, s0.cfg.hasPin i = false → s.pin i = s0.pin i
  present : ∀ i, (s0.pin i).isSome = true → (s.pin i).isSome = true

theorem Preserves.refl (s : State) : Preserves s s.delivering s :=
  ⟨rfl, rfl, fun _ _ => rfl, id, fun _ _ => rfl, fun _ => id⟩

section

variable {s0 s t : State} {d : List BusId}

/-- An update of other fields, but for one of `ac.chan` that keeps its canonical form. -/
theorem Preserves.congr (p : Preserves s0 d s) (hcfg : t.cfg = s.cfg) (hdel : t.delivering = s.delivering)
    (hsubs : t.subs = s.subs) (hpins : t.pins = s.pins) (hchan : chanWf s.ac.chan = true → chanWf t.ac.chan = true) :
    Preserves s0 d t := by
  have hpin : ∀ i, t.pin i = s.pin i := fun i => by simp only [State.pin, hpins]
  exact ⟨hcfg.trans p.cfg, hdel.trans p.delivering, fun b hb => (subscribers_congr hsubs b).trans (p.lists b hb),
    hchan ∘ p.chan, fun i hi => (hpin i).trans (p.absent i hi), fun i hi => by rw [hpin]; exact p.present i hi⟩

theorem Preserves.onlyFlags (p : Preserves s0 d s) (h : OnlyFlagsDiffer s t) : Preserves s0 d t := by
  rw [h]; exact p.congr rfl rfl rfl rfl id

theorem Preserves.setPin (p : Preserves s0 d s) {i : PinIx} (st : PinState) (hi : s.cfg.hasPin i = true) :
    Preserves s0 d (s.setPin i st) where
  cfg := p.cfg
  delivering := p.delivering
  lists := p.lists
  chan := p.chan
  absent k hk := by
    have hne : k ≠ i := by rintro rfl; rw [p.cfg, hk] at hi; cases hi
    rw [State.setPin_pin, if_neg hne]; exact p.absent k hk
  present k hk := by
    rw [State.setPin_pin]
    split
    · rfl
    · exact p.present k hk

end

/-- What a transaction keeps is kept by every elementary update: a raise marks its bus and ends with the list it began with
(R130, R132), and a hook outside can change the list of a delivering bus only (R35). -/
theorem portClosed_preserves (s0 : State) : PortClosed (Preserves s0) fun _ => True where
  ac h p := p.congr (by rw [h.rest]) (by rw [h.rest]) (by rw [h.rest]) (by rw [h.rest]) h.chan
  push _ _ b p _ := ⟨p.cfg, congrArg _ p.delivering, fun c hc => p.lists c (fun m => hc (.tail b m)), p.chan, p.absent,
    p.present⟩
  pop d s1 s b p q hb := by
    refine ⟨q.cfg, ?_, fun c hc => ?_, q.chan, q.absent, q.present⟩
    · show s.delivering.erase b = d
      rw [q.delivering, List.erase_cons_head]
    · by_cases e : c = b
      · subst e; exact hb.trans (p.lists c hc)
      · exact q.lists c (by simp [e, hc])
  popEnv _ _ _ p := p.congr rfl rfl rfl rfl id
  tag _ _ _ _ _ _ _ := trivial
  setPin _ _ _ st p hi := p.setPin st hi
  setIn _ _ _ _ p _ := p.congr rfl rfl rfl rfl id
  flagPin _ s i c p _ := p.onlyFlags (onlyFlagsDiffer_flagPin s i c)
  dir _ _ _ p _ := p.congr rfl rfl rfl rfl id
  out _ _ _ p _ := p.congr rfl rfl rfl rfl id
  pinctrl _ s n v p _ :=
    Preserves.onlyFlags (s := s.setPinctrl n v) (p.congr rfl rfl rfl rfl id) (onlyFlagsDiffer_levelCheck _ n)
  intflags _ _ _ _ p e := p.onlyFlags (onlyFlagsDiffer_writeIntflags e)
  setSubscribers d s b l p hb := by
    have hlists : ∀ c, c ∉ d → (s.setSubscribers b l).subscribers c = s.subscribers c := fun c hc => by
      rw [State.setSubscribers_subscribers, if_neg (by rintro rfl; exact hc (p.delivering ▸ hb))]
    have hpin : ∀ i, (s.setSubscribers b l).pin i = s.pin i := fun i => by simp [State.pin]
    exact ⟨by simp [p.cfg], by simp [p.delivering], fun c hc => (hlists c hc).trans (p.lists c hc),
      by simpa using p.chan, fun i hi => (hpin i).trans (p.absent i hi), fun i hi => by rw [hpin]; exact p.present i hi⟩

theorem kept_resetOp_preserves (s0 : State) (h : Handler) (hh : Handler.Keeps (Preserves s0) h) (d : List BusId)
    (s : State) : Kept (Preserves s0) d s (resetOp h s) := fun l p _ e =>
  have hc := portClosed_preserves s0
  (hc.keptByDelivery hh).resetOp_establishes hc.toKeptByPins (fun _ q => q.congr rfl rfl rfl rfl id) l
    (p.congr rfl rfl rfl rfl id) e

theorem handlerAt_preserves (s0 : State) (n : Nat) : Handler.Keeps (Preserves s0) (handlerAt n) :=
  (portClosed_preserves s0).handlerAt_keeps (kept_resetOp_preserves s0) n

theorem transact_preserves {q : Request} {s t : State} (hq : q ≠ .init) (e : transact q s = .next t) :
    t.Live ∧ Preserves s s.delivering t :=
  have hl := live_of_admission hq (transact_next e).2.1
  (portClosed_preserves s).kept_transact (kept_resetOp_preserves s) q _ s hl (.refl s) t e

/-! ## The subscriber lists -/

theorem transact_subs {q : Request} {s t : State} (hq : q ≠ .init) (hd : s.delivering = [])
    (e : transact q s = .next t) : t.subs = s.subs := by
  obtain ⟨-, p⟩ := transact_preserves hq e
  rw [hd] at p
  exact subs_eq_of_subscribers fun b => p.lists b List.not_mem_nil

theorem transact_init {s : State} (h : s.init = .uninitialized) : transact .init s = initOp s := by
  unfold transact transactWith
  rw [h]
  rfl

theorem initOp_ok {s : State} (h : s.cfg.initOk = true) :
    initOp s = .next { s with claims := s.cfg.claimTable, subs := s.cfg.subscriptions, init := .initialized } :=
  if_pos h

/-- Settles O59: INIT by its definition, every other transaction by `transact_preserves`. -/
theorem subscriberListsChangeOnlyAtInit : Obligations.SubscriberListsChangeOnlyAtInit := by
  refine ⟨fun s i hu hok hi => ⟨_, (transact_init hu).trans (initOp_ok hok), ?_⟩, fun i s t hd hne e => ?_⟩
  · simp only [State.subscribers, Config.subscriptions, Fin.getElem_fin, Vector.getElem_ofFn, Fin.eta, Config.pinList,
      if_pos hi]
    rfl
  · obtain ⟨q, hq, e⟩ := exec_next e
    refine transact_subs ?_ hd e
    rintro rfl
    exact hne (requestOfInstr_eq_init.1 hq)

/-! ## The PORT -/

section

variable {s t : State}

theorem State.PortOk.congr (h : s.PortOk) (hc : t.cfg = s.cfg) (hp : t.port = s.port) (hq : t.portReq = s.portReq) :
    t.PortOk := by
  refine ⟨?_, ?_, ?_, ?_, fun i hi => ?_, ?_⟩
  · rw [hc, hp]; exact h.dir
  · rw [hc, hp]; exact h.out
  · rw [hc, hp]; exact h.inp
  · rw [hc, hp]; exact h.intflags
  · rw [hc] at hi; unfold State.pinctrl; rw [hp]; exact h.pinctrl i hi
  · rw [hp, hq]; exact h.portReq

theorem State.PortOk.setIn (h : s.PortOk) {i : PinIx} (b : Bool) (hi : s.cfg.hasPin i = true) :
    (s.setIn (withBit s.port.inp i b)).PortOk :=
  ⟨h.dir, h.out, masked_withBit hi h.inp, h.intflags, h.pinctrl, h.portReq⟩

theorem State.PortOk.raiseFlag (h : s.PortOk) {i : PinIx} (hi : s.cfg.hasPin i = true) :
    (s.setIntflags (withBit s.port.intflags i true)).raisePort.PortOk where
  dir := h.dir
  out := h.out
  inp := h.inp
  intflags := masked_withBit hi h.intflags
  pinctrl := h.pinctrl
  portReq := (bne_iff_ne.2 (ne_zero_of_bit (i := i) (by simp))).symm

theorem State.PortOk.flagPin (h : s.PortOk) {i : PinIx} (c : Bool) (hi : s.cfg.hasPin i = true) :
    (s.flagPin i c).PortOk := by
  rcases s.flagPin_eq i c with e | ⟨-, -, e⟩ <;> rw [e]
  · exact h
  · exact h.raiseFlag hi

theorem State.PortOk.cancel (h : s.PortOk) (h0 : s.port.intflags = 0) : s.cancelPort.PortOk :=
  ⟨h.dir, h.out, h.inp, h.intflags, h.pinctrl, by simp [h0]⟩

theorem State.PortOk.levelCheck (h : s.PortOk) {i : PinIx} (hi : s.cfg.hasPin i = true) : (s.levelCheck i).PortOk := by
  rcases s.levelCheck_eq i with e | ⟨-, -, -, e⟩ | ⟨h0, e⟩ <;> rw [e]
  · exact h
  · exact h.raiseFlag hi
  · exact h.cancel h0

theorem State.PortOk.levelCheckList (h : s.PortOk) {m : Byte} (hm : ∀ i, bitAt m i = true → s.cfg.hasPin i = true)
    (l : List PinIx) : (levelCheckList m l s).PortOk := by
  induction l generalizing s with
  | nil => exact h
  | cons i l ih =>
    unfold Machine.levelCheckList
    split
    · exact ih (h.levelCheck (hm i ‹_›)) (by rw [cfg_levelCheck]; exact hm)
    · exact ih h hm

/-- The request line is left as it was only where a flag is left, and then one was set before (R31, R180). -/
theorem State.PortOk.acknowledge (h : s.PortOk) (m : Byte) : (s.acknowledge m).PortOk := by
  have hf : clearOnes s.port.intflags m &&& ~~~s.cfg.pinMask = 0 := masked_clearOnes h.intflags
  unfold State.acknowledge
  dsimp only
  split
  · rename_i h0
    have h0 : clearOnes s.port.intflags m = 0 := h0
    exact ⟨h.dir, h.out, h.inp, hf, h.pinctrl, by simp [h0]⟩
  · rename_i hne
    have hset : s.port.intflags ≠ 0 := fun h0 => hne (by simp [h0, clearOnes])
    refine ⟨h.dir, h.out, h.inp, hf, h.pinctrl, h.portReq.trans ?_⟩
    rw [bne_iff_ne.2 hset]
    exact (bne_iff_ne.2 hne).symm

theorem State.PortOk.writeIntflags {v : Byte} (h : s.PortOk) (e : writeIntflags v s = .next t) : t.PortOk := by
  rw [writeIntflags_eq] at e
  injection e with e
  subst e
  have ack := h.acknowledge (s.maskPins v)
  have hcfg : (s.acknowledge (s.maskPins v)).cfg = s.cfg := by rw [onlyFlagsDiffer_acknowledge s (s.maskPins v)]
  split
  · refine ack.levelCheckList (fun i hi => ?_) _
    rw [hcfg, hasPin_eq]
    exact (masked_iff _ _).1 (maskPins_within s v) i hi
  · exact ack

theorem State.PortOk.setPinctrl (h : s.PortOk) {n : PinIx} (v : Byte) (hn : s.cfg.hasPin n = true) :
    (s.setPinctrl n v).PortOk := by
  refine ⟨h.dir, h.out, h.inp, h.intflags, fun i hi => ?_, h.portReq⟩
  have hne : i ≠ n := by rintro rfl; exact absurd hn (by rw [show s.cfg.hasPin i = false from hi]; simp)
  rw [State.setPinctrl_pinctrl, if_neg hne]
  exact h.pinctrl i hi

theorem portOk_clearPort (s : State) : s.clearPort.PortOk :=
  (resetWith_portOk s.cfg).congr rfl rfl rfl

end

/-- What a transaction keeps of the state `s0` it began in, and R30's and R31's invariant of the PORT. -/
structure PortMid (s0 : State) (d : List BusId) (s : State) : Prop where
  preserves : Preserves s0 d s
  ok : s.PortOk

/-- On the list of a bus that is not delivering the port's hook stands with the pin's own index (R35, R220). -/
theorem Preserves.tag {s0 s : State} {d : List BusId} (p : Preserves s0 d s) (hr : s0.Registered) {i k : PinIx}
    (hi : BusId.pin i ∉ s.delivering) (hk : Subscriber.port k ∈ s.subscribers (.pin i)) : s0.cfg.hasPin k = true := by
  rw [p.lists _ (p.delivering ▸ hi)] at hk
  have hmem : Subscriber.port k ∈ (s0.subscribers (.pin i)).filter Subscriber.isPort := List.mem_filter.2 ⟨hk, rfl⟩
  rw [hr.pinHooks i] at hmem
  split at hmem
  · obtain rfl : k = i := by simpa using hmem
    assumption
  · cases hmem

theorem portClosed_portMid {s0 : State} (hr : s0.Registered) :
    PortClosed (PortMid s0) fun k => s0.cfg.hasPin k = true :=
  have hc := portClosed_preserves s0
  have here : ∀ {d s k}, Preserves s0 d s → s0.cfg.hasPin k = true → s.cfg.hasPin k = true :=
    fun p hk => by rw [p.cfg]; exact hk
  { ac := fun h p => ⟨hc.ac h p.preserves, p.ok.congr (by rw [h.rest]) (by rw [h.rest]) (by rw [h.rest])⟩
    push := fun d s b p hb => ⟨hc.push d s b p.preserves hb, p.ok.congr rfl rfl rfl⟩
    pop := fun d s1 s b p q hb => ⟨hc.pop d s1 s b p.preserves q.preserves hb, q.ok.congr rfl rfl rfl⟩
    popEnv := fun d s rest p => ⟨hc.popEnv d s rest p.preserves, p.ok.congr rfl rfl rfl⟩
    tag := fun _ _ _ _ p => p.preserves.tag hr
    setPin := fun d s i st p hi => ⟨hc.setPin d s i st p.preserves hi, p.ok.congr rfl rfl rfl⟩
    setIn := fun d s i b p hi => ⟨hc.setIn d s i b p.preserves trivial, p.ok.setIn b (here p.preserves hi)⟩
    flagPin := fun d s i c p hi => ⟨hc.flagPin d s i c p.preserves trivial, p.ok.flagPin c (here p.preserves hi)⟩
    dir := fun d s v p hv => ⟨hc.dir d s v p.preserves hv,
      hv p.ok.dir, p.ok.out, p.ok.inp, p.ok.intflags, p.ok.pinctrl, p.ok.portReq⟩
    out := fun d s v p hv => ⟨hc.out d s v p.preserves hv,
      p.ok.dir, hv p.ok.out, p.ok.inp, p.ok.intflags, p.ok.pinctrl, p.ok.portReq⟩
    pinctrl := fun d s n v p hn => ⟨hc.pinctrl d s n v p.preserves hn,
      (p.ok.setPinctrl v hn).levelCheck (s := s.setPinctrl n v) hn⟩
    intflags := fun d s v t p e => ⟨hc.intflags d s v t p.preserves e, p.ok.writeIntflags e⟩
    setSubscribers := fun d s b l p hb => ⟨hc.setSubscribers d s b l p.preserves hb,
      p.ok.congr (by simp) (by simp) (by simp)⟩ }

/-- RESET brings the PORT's invariant about, whatever the registers held before (R340). -/
theorem resetOp_portMid {s0 s t : State} (hr : s0.Registered) {h : Handler} (hh : Handler.Keeps (PortMid s0) h)
    {d : List BusId} (l : s.Live) (p : Preserves s0 d s) (e : resetOp h s = .next t) : t.Live ∧ PortMid s0 d t :=
  have hc := portClosed_portMid hr
  (hc.keptByDelivery hh).resetOp_establishes hc.toKeptByPins
    (fun _ q => ⟨q.preserves.congr rfl rfl rfl rfl id, q.ok.congr rfl rfl rfl⟩) l
    ⟨p.congr rfl rfl rfl rfl id, portOk_clearPort s⟩ e

theorem kept_resetOp_portMid {s0 : State} (hr : s0.Registered) (h : Handler) (hh : Handler.Keeps (PortMid s0) h)
    (d : List BusId) (s : State) : Kept (PortMid s0) d s (resetOp h s) :=
  fun l p _ e => resetOp_portMid hr hh l p.preserves e

/-! ## The comparator -/

/-- The invariant of the comparator; its request line is left out where `req` does not hold, since RESET updates it only
after the output was published (R263). -/
structure AcMid (req : Prop) (s : State) : Prop where
  ctrla : s.ac.ctrla &&& ~~~ctrlaMask = 0
  muxctrla : s.ac.muxctrla &&& ~~~muxctrlaMask = 0
  intctrl : s.ac.intctrl &&& ~~~intctrlMask = 0
  suspended : s.ac.suspended = s.suspendedNow
  acReq : req → s.acReq = s.acReqWanted

section

variable {req : Prop} {s t : State}

theorem State.AcOk.acMid (h : s.AcOk) (req : Prop) : AcMid req s :=
  ⟨h.ctrla, h.muxctrla, h.intctrl, h.suspended, fun _ => h.acReq⟩

theorem AcMid.acOk (h : AcMid True s) : s.AcOk := ⟨h.ctrla, h.muxctrla, h.intctrl, h.suspended, h.acReq trivial⟩

theorem AcMid.congr (h : AcMid req s) (hc : t.cfg = s.cfg) (ha : t.ac = s.ac) (hs : t.sleep = s.sleep)
    (hq : t.acReq = s.acReq) : AcMid req t := by
  refine ⟨?_, ?_, ?_, ?_, fun r => ?_⟩
  · rw [ha]; exact h.ctrla
  · rw [ha]; exact h.muxctrla
  · rw [ha]; exact h.intctrl
  · unfold State.suspendedNow State.acRunstdby; rw [ha, hs, hc]; exact h.suspended
  · unfold State.acReqWanted State.acIntEnable; rw [ha, hq]; exact h.acReq r

theorem AcMid.onlyFlags (h : AcMid req s) (hf : OnlyFlagsDiffer s t) : AcMid req t := by
  rw [hf]; exact h.congr rfl rfl rfl rfl

/-- `updateAcReq()` settles the request line (R262). -/
theorem AcMid.updateAcReq {req' : Prop} (h : AcMid req' s) : AcMid req s.updateAcReq := by
  rw [State.updateAcReq_eq]; exact ⟨h.ctrla, h.muxctrla, h.intctrl, h.suspended, fun _ => rfl⟩

theorem AcMid.withoutReq (h : AcMid req s) : AcMid False s :=
  ⟨h.ctrla, h.muxctrla, h.intctrl, h.suspended, False.elim⟩

theorem acMid_clearAc (s : State) : AcMid False s.clearAc :=
  ⟨BitVec.zero_and, BitVec.zero_and, BitVec.zero_and, rfl, False.elim⟩

end

theorem closed_acMid (req : Prop) : Closed (fun _ s => AcMid req s) fun _ => True where
  emit _ _ _ p := p.congr rfl rfl rfl rfl
  popEnv _ _ _ _ p _ := p.congr rfl rfl rfl rfl
  push _ _ _ p _ := p.congr rfl rfl rfl rfl
  pop _ _ _ _ _ p _ := p.congr rfl rfl rfl rfl
  tag _ _ _ _ _ _ _ := trivial
  setPin _ _ _ _ p _ := p.congr rfl rfl rfl rfl
  setIn _ _ _ _ p _ := p.congr rfl rfl rfl rfl
  flagPin _ s i c p _ := p.onlyFlags (onlyFlagsDiffer_flagPin s i c)
  dir _ _ _ p _ := p.congr rfl rfl rfl rfl
  out _ _ _ p _ := p.congr rfl rfl rfl rfl
  intflags _ _ _ _ p e := p.onlyFlags (onlyFlagsDiffer_writeIntflags e)
  pinctrl _ s n v p _ :=
    AcMid.onlyFlags (s := s.setPinctrl n v) (p.congr rfl rfl rfl rfl) (onlyFlagsDiffer_levelCheck _ n)
  ctrla _ _ v p := ⟨masked_and_right v _, p.muxctrla, p.intctrl, rfl, p.acReq⟩
  muxctrla _ _ v p := ⟨p.ctrla, masked_and_right v _, p.intctrl, p.suspended, p.acReq⟩
  intctrl _ s v p := AcMid.updateAcReq (s := s.setIntctrl (v &&& intctrlMask)) (req' := False)
    ⟨p.ctrla, p.muxctrla, masked_and_right v _, p.suspended, False.elim⟩
  status _ s v p := by
    refine AcMid.updateAcReq (req' := False) ?_
    split
    · exact ⟨p.ctrla, p.muxctrla, p.intctrl, p.suspended, False.elim⟩
    · exact p.withoutReq
  raw _ _ _ p _ := ⟨p.ctrla, p.muxctrla, p.intctrl, p.suspended, p.acReq⟩
  acOut _ _ _ p _ := ⟨p.ctrla, p.muxctrla, p.intctrl, p.suspended, p.acReq⟩
  flagAc _ s p := AcMid.updateAcReq (s := s.setCmp true) (req' := False)
    ⟨p.ctrla, p.muxctrla, p.intctrl, p.suspended, False.elim⟩
  sleep _ _ _ p _ := ⟨p.ctrla, p.muxctrla, p.intctrl, rfl, p.acReq⟩
  wake _ _ p := ⟨p.ctrla, p.muxctrla, p.intctrl, rfl, p.acReq⟩
  chan _ _ _ _ p := ⟨p.ctrla, p.muxctrla, p.intctrl, p.suspended, p.acReq⟩
  ref _ _ _ p := ⟨p.ctrla, p.muxctrla, p.intctrl, p.suspended, p.acReq⟩
  subscribe _ _ _ _ p _ _ := p.congr (by simp) (by simp) (by simp) (by simp)
  unsubscribe _ _ _ _ p _ := p.congr (by simp) (by simp) (by simp) (by simp)

theorem redriveList_live {n : Nat} {l : List PinIx} {s t : State} (hl : s.Live)
    (e : redriveList (handlerAt n) l s = .next t) : t.Live :=
  ((closed_extends s).redriveList ((closed_extends s).handlerAt (fun _ => resetOp_keeps_extends s) n) l [] s hl
    (.refl s) t e).1

/-- RESET brings the comparator's invariant about, whatever the registers held before: `acReset()` clears them before it
publishes, and updates the request line last (R263). -/
theorem resetOp_acMid {n : Nat} (hh : Handler.Keeps (fun _ s => AcMid False s) (handlerAt n)) (req : Prop) {s t : State}
    (hl : s.Live) (e : resetOp (handlerAt n) s = .next t) : AcMid req t := by
  obtain ⟨u, v, hu, hv, rfl⟩ := resetOp_next e
  have lu : u.Live := redriveList_live (by exact hl) hu
  obtain ⟨w, hw, rfl⟩ := acReset_next hv
  have pw : AcMid False w := by
    rcases hw with ⟨-, hw⟩ | ⟨-, rfl⟩
    · have cleared := acMid_clearAc u
      refine ((closed_acMid False).raiseOutside hh _ _ _ [] (u.clearAc.setAcOut false) (by exact lu) ?_ w hw).2
      exact ⟨cleared.ctrla, cleared.muxctrla, cleared.intctrl, cleared.suspended, False.elim⟩
    · exact acMid_clearAc u
  exact pw.updateAcReq.congr rfl rfl rfl rfl

theorem resetOp_live {h : Handler} {s t : State} (e : resetOp h s = .next t) : t.Live := by
  obtain ⟨u, v, -, -, rfl⟩ := resetOp_next e
  exact .inr rfl

theorem handlerAt_acMid (n : Nat) : Handler.Keeps (fun _ s => AcMid False s) (handlerAt n) :=
  (closed_acMid False).handlerAt (fun _ hh _ _ l _ _ e => ⟨resetOp_live e, resetOp_acMid hh False l e⟩) n

theorem transact_acOk {q : Request} {s t : State} (l : s.Live) (hs : s.AcOk) (e : transact q s = .next t) : t.AcOk :=
  ((closed_acMid True).transact
    (fun n _ _ _ l _ _ e => ⟨resetOp_live e, resetOp_acMid (handlerAt_acMid n) True l e⟩) q [] s l (hs.acMid True) t
    e).2.acOk

/-! ## The pins after RESET -/

/-- A re-drive gives every existing pin of its list a state, and no later drive takes it away (R191, R192). -/
theorem redriveList_present {n : Nat} {l : List PinIx} {s t : State} (hl : s.Live)
    (e0 : redriveList (handlerAt n) l s = .next t) {k : PinIx} (hk : s.cfg.hasPin k = true)
    (hmem : k ∈ l ∨ (s.pin k).isSome = true) : (t.pin k).isSome = true := by
  have later : ∀ {l : List PinIx} {u : State}, u.Live → redriveList (handlerAt n) l u = .next t →
      (u.pin k).isSome = true → (t.pin k).isSome = true := fun {l u} lu e hu =>
    (((portClosed_preserves u).keptByDelivery (handlerAt_preserves u n)).kept_redriveList
      (portClosed_preserves u).toKeptByPins l _ u lu (.refl u) t e).2.present k hu
  induction l generalizing s with
  | nil => exact later hl e0 (hmem.resolve_left List.not_mem_nil)
  | cons i l ih =>
    by_cases hs : (s.pin k).isSome = true
    · exact later hl e0 hs
    obtain ⟨u, hu, e⟩ := redriveList_cons_next e0
    clear e0
    rcases hu with ⟨hi, hu⟩ | ⟨hi, rfl⟩
    · obtain ⟨lu, pu⟩ := ((portClosed_preserves s).keptByDelivery (handlerAt_preserves s n)).kept_drive
        (portClosed_preserves s).toKeptByPins _ _ hi hl (.refl s) u hu
      refine ih lu e (by rw [pu.cfg]; exact hk) ?_
      rcases List.mem_cons.1 (hmem.resolve_right hs) with rfl | hm
      · right
        rcases drive_next hu with ⟨hp, rfl⟩ | ⟨-, hu⟩
        · rw [hp]; rfl
        · have hc := portClosed_preserves (s.setPin k (s.drivenState k))
          exact ((hc.keptByDelivery (handlerAt_preserves _ n)).kept_raisePin hc.toKeptByPins k _ _ _ (by exact hl)
            (.refl _) u hu).2.present k (by simp)
      · exact .inl hm
    · refine ih hl e hk ?_
      rcases List.mem_cons.1 (hmem.resolve_right hs) with rfl | hm
      · rw [hk] at hi; cases hi
      · exact .inl hm

theorem resetOp_present {n : Nat} {s t : State} (hl : s.Live) (e : resetOp (handlerAt n) s = .next t) {k : PinIx}
    (hk : s.cfg.hasPin k = true) : (t.pin k).isSome = true := by
  obtain ⟨u, v, hu, hv, rfl⟩ := resetOp_next e
  have lu : u.Live := redriveList_live (by exact hl) hu
  have pu : (u.pin k).isSome = true := redriveList_present (by exact hl) hu hk (.inl (mem_pinOrder k))
  exact (((portClosed_preserves u).keptByDelivery (handlerAt_preserves u n)).kept_acReset _ u lu (.refl u) v
    hv).2.present k pu

/-! ## The invariant -/

theorem Preserves.registered {s t : State} (p : Preserves s [] t) (hx : Extends s t) (h : s.Registered) :
    t.Registered where
  initOk := by rw [p.cfg]; exact h.initOk
  claims := by rw [hx.claims, p.cfg]; exact h.claims
  subs := by
    rw [subs_eq_of_subscribers fun b => p.lists b List.not_mem_nil, p.cfg]; exact h.subs

/-- Before Ready, INIT has succeeded and the only transaction left is RESET (R344). -/
theorem eq_reset_of_admission {st : State} {q : Request} (h : admission st.init q = none) (hl : st.Live)
    (hn : st.init ≠ .ready) : q = .reset := by
  have hi : st.init = .initialized := hl.resolve_right hn
  by_contra hq
  by_cases h0 : q = .init <;> simp [admission, hi, hq, h0] at h

/-- A Ready block keeps the three parts of the invariant that speak of registers and pins, and RESET brings them about. -/
theorem transact_ready_parts {q : Request} {s t : State} (hi : s.Inv) (hq : q ≠ .init) (e : transact q s = .next t) :
    t.PortOk ∧ t.AcOk ∧ ∀ i, s.cfg.hasPin i = true → (t.pin i).isSome = true := by
  obtain ⟨-, ha, hp⟩ := transact_next e
  have l := live_of_admission hq ha
  have hr : s.Registered := hi.registered l
  have start : Preserves s [] s := hi.delivering ▸ .refl s
  have keep := (portClosed_portMid hr).handlerAt_keeps (kept_resetOp_portMid hr) nestDepth
  by_cases hrdy : s.init = .ready
  · have hport : PortMid s [] t :=
      ((portClosed_portMid hr).kept_transact (kept_resetOp_portMid hr) q [] s l ⟨start, hi.port hrdy⟩ t e).2
    exact ⟨hport.ok, transact_acOk l (hi.ac hrdy) e, fun i h => hport.preserves.present i (hi.pins hrdy i h)⟩
  · obtain rfl := eq_reset_of_admission ha l hrdy
    exact ⟨(resetOp_portMid hr keep l start hp).2.ok, (resetOp_acMid (handlerAt_acMid nestDepth) True l hp).acOk,
      fun i h => resetOp_present l hp h⟩

theorem transact_inv {q : Request} {s t : State} (hi : s.Inv) (hq : q ≠ .init) (e : transact q s = .next t) : t.Inv := by
  have l := live_of_admission hq (transact_next e).2.1
  have p : Preserves s [] t := hi.delivering ▸ (transact_preserves hq e).2
  obtain ⟨hport, hac, hpins⟩ := transact_ready_parts hi hq e
  exact
    { delivering := p.delivering
      chan := p.chan hi.chan
      absentPins := fun i h => by
        rw [p.cfg] at h
        rw [p.absent i h]; exact hi.absentPins i h
      registered := fun _ => p.registered (transact_extends hq e) (hi.registered l)
      port := fun _ => hport
      ac := fun _ => hac
      pins := fun _ i h => hpins i (p.cfg ▸ h) }

/-- INIT leaves the block Initialized with its claims and lists registered, or Failed; no register is constrained yet
(R343, R344, R48). -/
theorem initOp_inv {s t : State} (hi : s.Inv) (e : initOp s = .next t) : t.Inv := by
  unfold initOp at e
  split at e
  · rename_i hok
    injection e with e
    subst e
    exact ⟨hi.delivering, hi.chan, hi.absentPins, fun _ => ⟨hok, rfl, rfl⟩, nofun, nofun, nofun⟩
  · injection e with e
    subst e
    exact ⟨hi.delivering, hi.chan, hi.absentPins, fun h => (h.elim nofun nofun), nofun, nofun, nofun⟩

theorem State.Inv.inbox {s : State} (h : s.Inv) (l : List Input) : State.Inv { s with inbox := l } where
  delivering := h.delivering
  chan := h.chan
  absentPins := h.absentPins
  registered hl := ⟨(h.registered hl).initOk, (h.registered hl).claims, (h.registered hl).subs⟩
  port hr := (h.port hr).congr rfl rfl rfl
  ac hr := AcMid.acOk (s := { s with inbox := l }) (((h.ac hr).acMid True).congr rfl rfl rfl rfl)
  pins := h.pins

/-- A step that answers a next state performed the transaction of the first input at the boundary. -/
theorem step_next {s t : State} (e : step s = .next t) :
    ∃ x rest q, s.inbox = x :: rest ∧ requestOf s.cfg x = .ok q ∧ transact q { s with inbox := rest } = .next t := by
  cases h : s.inbox with
  | nil => unfold step at e; rw [h] at e; cases e
  | cons x rest =>
    rw [step_input h] at e
    obtain ⟨q, hq, e⟩ := performInputWith_next e
    exact ⟨x, rest, q, rfl, hq, e⟩

/-- Settles O56: INIT by its definition; every other transaction keeps pins, lists and delivered values
(`transact_preserves`), and in a Ready block the PORT's and the comparator's part, which RESET brings about
(`transact_ready_parts`). -/
theorem everyStepKeepsTheInvariant : Obligations.EveryStepKeepsTheInvariant := by
  intro s t hi e
  obtain ⟨x, rest, q, -, -, e⟩ := step_next e
  by_cases hq : q = .init
  · subst hq
    exact initOp_inv (hi.inbox rest) (transact_next e).2.2
  · exact transact_inv (hi.inbox rest) hq e

end Sys2Proof.Machine
end

section
/-! PROOFS. A silent environment: what clears a flag (O36), what RESET leaves (O11), and how IN goes with the pins (O35,
O57). -/

namespace Sys2Proof.Machine

open Sys2Proof

/-- Where no hook outside the block acts, a property that the trace does not touch survives their calls. -/
theorem kept_callOutside_silent {P : List BusId → State → Prop} (hac : ∀ {d s t}, OnlyAcDiffers s t → P d s → P d t)
    (hs : ∀ {d s}, P d s → s.env = []) (h : Handler) (bus : BusId) (id : SignalId) (p : Payload) (tag : Int)
    (d : List BusId) (s : State) : Kept P d s (callOutside h bus id p tag s) := by
  intro l q t e
  rw [callOutside_silent h bus id p tag (hs q)] at e
  injection e with e
  subst e
  exact ⟨l, hac (onlyAcDiffers_emitAll s _) q⟩

theorem transact_reset {s : State} (l : s.Live) : transact .reset s = resetOp topHandler s := by
  unfold transact transactWith
  rcases l with l | l <;> rw [l] <;> rfl

theorem requestOfInstr_eq_reset {i : Instr} : requestOfInstr i = some .reset ↔ i = .reset := by
  cases i <;> simp [requestOfInstr]

theorem initOp_frame {s t : State} (e : initOp s = .next t) :
    t.port = s.port ∧ t.env = s.env ∧ (t.init = .initialized ∨ t.init = .failed) := by
  unfold initOp at e
  split at e
  · injection e with e; subst e; exact ⟨rfl, rfl, .inl rfl⟩
  · injection e with e; subst e; exact ⟨rfl, rfl, .inr rfl⟩

/-! ## Flags -/

/-- No hook outside the block acts, and the flag of pin `k` is set. -/
def FlagSet (k : PinIx) (_ : List BusId) (s : State) : Prop := s.env = [] ∧ bitAt s.port.intflags k = true

section

variable {s t : State} {k : PinIx}

theorem bitAt_withBit_true {v : Byte} (i : PinIx) (h : bitAt v k = true) : bitAt (withBit v i true) k = true := by
  rw [bitAt_withBit]
  split
  · rfl
  · exact h

theorem flagSet_flagPin {d : List BusId} (i : PinIx) (c : Bool) (h : FlagSet k d s) : FlagSet k d (s.flagPin i c) := by
  rcases s.flagPin_eq i c with e | ⟨-, -, e⟩ <;> rw [e]
  · exact h
  · exact ⟨h.1, bitAt_withBit_true i h.2⟩

theorem flagSet_levelCheck {d : List BusId} (i : PinIx) (h : FlagSet k d s) : FlagSet k d (s.levelCheck i) := by
  rcases s.levelCheck_eq i with e | ⟨-, -, -, e⟩ | ⟨-, e⟩ <;> rw [e]
  · exact h
  · exact ⟨h.1, bitAt_withBit_true i h.2⟩
  · exact h

theorem flagSet_levelCheckList {d : List BusId} (m : Byte) (l : List PinIx) (h : FlagSet k d s) :
    FlagSet k d (levelCheckList m l s) := by
  induction l generalizing s with
  | nil => exact h
  | cons i l ih =>
    unfold levelCheckList
    split
    · exact ih (flagSet_levelCheck i h)
    · exact ih h

/-- Acknowledging other flags leaves a flag set (R180). -/
theorem flagSet_writeIntflags {d : List BusId} {v : Byte} (hv : bitAt v k = false) (h : FlagSet k d s)
    (e : writeIntflags v s = .next t) : FlagSet k d t := by
  rw [writeIntflags_eq] at e
  injection e with e
  subst e
  have hbit : bitAt (clearOnes s.port.intflags (s.maskPins v)) k = true := by simp [State.maskPins, hv, h.2]
  have ack : FlagSet k d (s.acknowledge (s.maskPins v)) := by
    unfold State.acknowledge
    dsimp only
    split <;> exact ⟨h.1, hbit⟩
  split
  · exact flagSet_levelCheckList _ _ ack
  · exact ack

end

theorem keptByDelivery_flagSet (k : PinIx) (h : Handler) : KeptByDelivery (FlagSet k) h :=
  have hac : ∀ {d s t}, OnlyAcDiffers s t → FlagSet k d s → FlagSet k d t := fun e p => by rw [e.rest]; exact p
  { ac := hac
    call := kept_callOutside_silent (P := FlagSet k) hac (fun p => p.1) h
    push := fun _ _ _ p _ => p
    pop := fun _ _ _ _ _ p _ => p }

theorem keptByPins_flagSet (k : PinIx) : KeptByPins (FlagSet k) fun _ => True where
  tag _ _ _ _ _ _ _ := trivial
  setPin _ _ _ _ p _ := p
  setIn _ _ _ _ p _ := p
  flagPin _ _ i c p _ := flagSet_flagPin i c p

theorem keptByRegisters_flagSet (k : PinIx) : KeptByRegisters (FlagSet k) where
  dir _ _ _ p _ := p
  out _ _ _ p _ := p
  pinctrl _ s n v p _ := flagSet_levelCheck (s := s.setPinctrl n v) n p

theorem portReg_eq_intflags {c : Config} {off : Nat} (h : c.portReg off = .intflags) : off = 9 := by
  unfold Config.portReg at h
  split at h
  case h_10 => rfl
  case h_11 => split at h <;> cases h
  all_goals cases h

theorem vportReg_eq_intflags {off : Nat} (h : vportReg off = .intflags) : off = 3 := by
  unfold vportReg at h
  split at h
  case h_4 => rfl
  all_goals cases h

theorem inRange_bounds {lo hi : Nat} {off : Byte} (h : inRange lo hi off = true) : lo ≤ off.toNat ∧ off.toNat ≤ hi := by
  simpa [inRange] using h

/-- The words that write INTFLAGS are those of its two rows. -/
theorem instr_of_acknowledges {c : Config} {i : Instr} {q : Request} {v : Byte} (hwf : i.wellFormed = true)
    (hq : requestOfInstr i = some q) (ha : Acknowledges c q v) : i = .wrPortIntflags v ∨ i = .wrVportIntflags v := by
  rcases ha with ⟨off, rfl, h⟩ | ⟨off, rfl, h⟩
  · obtain rfl := portReg_eq_intflags h
    cases i with
    | wrPortIntflags w => cases hq; exact .inl rfl
    | wrPortReserved0A o w | wrPortReserved0C o w | wrPortReserved18 o w | wrPortUnclaimed20 o w
    | wrPortUnclaimed40 o w | wrPortUnclaimed80 o w =>
      have ho : o.toNat = 9 := by injection hq with hq; injection hq
      have := inRange_bounds hwf
      omega
    | _ => simp [requestOfInstr] at hq
  · obtain rfl := vportReg_eq_intflags h
    cases i with
    | wrVportIntflags w => cases hq; exact .inr rfl
    | wrVportUnclaimed04 o w | wrVportUnclaimed08 o w | wrVportUnclaimed10 o w | wrVportUnclaimed20 o w
    | wrVportUnclaimed40 o w | wrVportUnclaimed80 o w =>
      have ho : o.toNat = 3 := by injection hq with hq; injection hq
      have := inRange_bounds hwf
      omega
    | _ => simp [requestOfInstr] at hq

/-- Settles O36: without a write of 1 to it, a set flag survives every operation but RESET. -/
theorem flagsClearOnlyByAcknowledge : Obligations.FlagsClearOnlyByAcknowledge := by
  intro i s t k hwf hs e hset hclear
  obtain ⟨q, hq, e⟩ := exec_next e
  obtain ⟨-, ha, hp⟩ := transact_next e
  by_contra hno
  obtain ⟨hreset, hack⟩ := not_or.1 hno
  have unset : ∀ v, Acknowledges s.cfg q v → bitAt v k = false := fun v hv =>
    Bool.eq_false_iff.2 fun h1 => hack ⟨v, instr_of_acknowledges hwf hq hv, h1⟩
  have stays : bitAt t.port.intflags k = true := by
    by_cases hi : q = .init
    · subst hi
      rw [(initOp_frame hp).1]; exact hset
    · have hr : q ≠ .reset := by
        rintro rfl
        exact hreset (requestOfInstr_eq_reset.1 hq)
      exact ((keptByDelivery_flagSet k topHandler).kept_performAdmitted (keptByPins_flagSet k)
        (keptByRegisters_flagSet k) (d := []) hi
        (fun v hv l p t e => ⟨live_writeIntflags l e, flagSet_writeIntflags (unset v hv) p e⟩) (fun h0 => absurd h0 hr)
        (live_of_admission hi ha) ⟨hs, hset⟩ t hp).2.2
  rw [stays] at hclear
  cases hclear

/-! ## RESET -/

theorem State.Registered.pinHook {s : State} (r : s.Registered) {i : PinIx} (hi : s.cfg.hasPin i = true) :
    (s.subscribers (.pin i)).filter Subscriber.isPort = [.port i] := by
  rw [r.pinHooks, if_pos hi]

/-- With DIR and PINnCTRL 0 a pin floats (R190). -/
theorem clearPort_drivenState (s : State) (i : PinIx) : s.clearPort.drivenState i = .floating := by
  simp [State.drivenState, State.pullupen, PortRegs.reset]

theorem clearPort_isc (s : State) (i : PinIx) : s.clearPort.isc i = .intDisable := by
  simp only [State.isc, State.clearPort_pinctrl]; rfl

theorem portRegs_ext {a b : PortRegs} (hdir : a.dir = b.dir) (hout : a.out = b.out) (hin : a.inp = b.inp)
    (hflags : a.intflags = b.intflags) (hctrl : a.pinctrl = b.pinctrl) : a = b := by
  cases a; cases b; cases hdir; cases hout; cases hin; cases hflags; cases hctrl; rfl

/-- The re-drive inside RESET: every existing pin floats, and no register changes, since a floating pin's level is 0 and
nothing senses (R340, R221, R102). -/
theorem redriveList_clearPort {s : State} (hr : s.Registered) (hs : s.Silent) (hd : s.delivering = []) :
    ∃ pins trace, redriveList topHandler pinOrder s.clearPort =
        .next { s with port := PortRegs.reset, pins := pins, portReq := false, trace := trace } ∧
      (∀ i, pins[i] = if s.cfg.hasPin i then some .floating else s.pin i) ∧
      trace = s.trace ++ .cancel s.cfg.portVector ::
        State.redriveEvents { s with port := PortRegs.reset } 0 pinOrder := by
  obtain ⟨u, hu, du⟩ := redriveList_silent (s := s.clearPort) topHandler pinOrder pinOrder_nodup
    (fun i hi => hr.pinHook hi) hs hd (portOk_clearPort s).portReq
  have hin : u.port.inp = 0 := (eq_zero_iff_bits _).2 fun i => by
    rw [du.inp, clearPort_drivenState]
    simp [State.inAfter, pinLevel, PortRegs.reset]
  have hflags : u.port.intflags = 0 := (eq_zero_iff_bits _).2 fun i => by
    rw [du.intflags, clearPort_drivenState]
    simp [State.flagAfter, clearPort_isc, senseHolds, PortRegs.reset]
  have hport : u.port = PortRegs.reset := portRegs_ext du.dir du.out hin hflags du.pinctrl
  have hreq : u.portReq = false := by rw [du.portReq, hflags]; rfl
  refine ⟨u.pins, u.trace, ?_, fun i => ?_, ?_⟩
  · rw [hu, du.rest, hport, hreq]; rfl
  · have := du.pins i
    rw [clearPort_drivenState] at this
    simpa [State.pin] using this
  · have hev : s.clearPort.redriveEvents 0 pinOrder = State.redriveEvents { s with port := PortRegs.reset } 0 pinOrder :=
      redriveEvents_congr (u := s.clearPort) (s := { s with port := PortRegs.reset }) rfl (subscribers_congr rfl) rfl
        (drivenState_congr rfl rfl rfl) (fun _ => rfl) (fun _ _ => rfl) (fun _ _ => rfl) 0
    rw [du.trace, ← hev]
    simp [PortRegs.reset]

theorem acReset_eq (h : Handler) (s : State) :
    acReset h s = andThen (if s.ac.out then raiseOutside h .acOut .acOutput (.acBit false) (s.clearAc.setAcOut false)
      else .next s.clearAc) fun u => .next u.updateAcReq := rfl

/-- `acReset()` in a silent environment (R263). -/
theorem acReset_silent {s : State} (h : Handler) (hs : s.env = []) (hd : BusId.acOut ∉ s.delivering) :
    acReset h s = .next { s with
      ac := { AcState.reset with ref := s.ac.ref, chan := s.ac.chan, suspended := (s.setCtrla 0).suspendedNow }
      acReq := false
      trace := s.trace ++ ((if s.ac.out then s.signals .acOut .acOutput (.acBit false) else []) ++
        (if s.acReq then [.cancel s.cfg.acVector] else [])) } := by
  have published : (if s.ac.out then raiseOutside h .acOut .acOutput (.acBit false) (s.clearAc.setAcOut false)
        else .next s.clearAc) =
      .next ((s.clearAc.setAcOut false).emitAll
        (if s.ac.out then s.signals .acOut .acOutput (.acBit false) else [])) := by
    cases ho : s.ac.out
    · simp [State.clearAc, State.setAcOut, ho]
    · exact raiseOutside_silent (s := s.clearAc.setAcOut false) h _ _ _ hs hd
  rw [acReset_eq, published, andThen_next, State.updateAcReq_eq]
  generalize (if s.ac.out then s.signals .acOut .acOutput (.acBit false) else []) = events
  simp [State.emitAll, State.clearAc, State.setAcOut, State.acReqWanted, AcState.reset]

/-- RESET in a silent environment (R340), with the pins it leaves. -/
theorem resetOp_silent {s : State} (hr : s.Registered) (hs : s.Silent) (hd : s.delivering = []) :
    ∃ pins, (∀ i : PinIx, pins[i] = if s.cfg.hasPin i then some PinState.floating else s.pin i) ∧
      resetOp topHandler s = .next { s with
        port := PortRegs.reset, pins := pins, portReq := false, acReq := false, init := .ready
        ac := { AcState.reset with
          ref := s.ac.ref, chan := s.ac.chan, suspended := (s.setCtrla 0).suspendedNow }
        trace := s.trace ++ .cancel s.cfg.portVector :: (State.redriveEvents { s with port := PortRegs.reset } 0 pinOrder ++
          (if s.ac.out then s.signals .acOut .acOutput (.acBit false) else []) ++
          (if s.acReq then [.cancel s.cfg.acVector] else [])) } := by
  obtain ⟨pins, trace, hu, hpins, rfl⟩ := redriveList_clearPort hr hs hd
  refine ⟨pins, hpins, ?_⟩
  have hout : BusId.acOut ∉ s.delivering := by rw [hd]; exact List.not_mem_nil
  have hac := acReset_silent
    (s := { s with port := PortRegs.reset, pins := pins, portReq := false, trace := s.trace ++ .cancel s.cfg.portVector ::
              State.redriveEvents { s with port := PortRegs.reset } 0 pinOrder }) topHandler hs hout
  unfold resetOp
  rw [hu, andThen_next, hac, andThen_next]
  simp only [List.append_assoc, List.cons_append]
  rfl

/-- Settles O11 by `resetOp_silent`; the absent pins have no state by the invariant. -/
theorem resetCompletes : Obligations.ResetCompletes := by
  intro s hi l hs
  obtain ⟨pins, hpins, e⟩ := resetOp_silent (hi.registered l) hs hi.delivering
  refine ⟨_, (transact_reset l).trans e, rfl, rfl, fun i => (hpins i).trans ?_, rfl⟩
  cases h : s.cfg.hasPin i
  · exact hi.absentPins i h
  · rfl

/-! ## IN and the pins -/

/-- Pin `i` and its bit of IN are as they were, or the pin changed its state, and its bit of IN is then the level of the new
state where the port's hook records it (R25, R222, R225). -/
def PinMoved (s t : State) (i : PinIx) : Prop :=
  (t.pin i = s.pin i ∧ bitAt t.port.inp i = bitAt s.port.inp i) ∨
  ∃ st, s.pin i ≠ some st ∧ t.pin i = some st ∧
    bitAt t.port.inp i = if st != .shorted && s.inputsSense then pinLevel st else bitAt s.port.inp i

section

variable {s t u : State} {i : PinIx}

theorem pinMoved_of_inAfter {st : PinState} (hp : t.pin i = some st) (hin : bitAt t.port.inp i = s.inAfter i st) :
    PinMoved s t i := by
  unfold State.inAfter State.senses at hin
  by_cases h : s.pin i = some st
  · exact .inl ⟨hp.trans h.symm, by simpa [h] using hin⟩
  · exact .inr ⟨st, h, hp, by simpa [h] using hin⟩

theorem DrivenTo.pinMoved {n : PinIx} {st : PinState} (h : DrivenTo s n st t) (i : PinIx) : PinMoved s t i := by
  have hp := h.pins i
  have hin := h.inp i
  split at hp
  · rename_i e; subst e
    rw [if_pos rfl] at hin
    exact pinMoved_of_inAfter hp hin
  · rename_i e
    rw [if_neg e] at hin
    exact .inl ⟨hp, hin⟩

theorem Redriven.pinMoved (h : Redriven s t) (i : PinIx) : PinMoved s t i := by
  have hp := h.pins i
  have hin := h.inp i
  split at hp
  · rename_i e
    rw [if_pos e] at hin
    exact pinMoved_of_inAfter hp hin
  · rename_i e
    rw [if_neg e] at hin
    exact .inl ⟨hp, hin⟩

theorem OnlyFlagsDiffer.pinMoved (h : OnlyFlagsDiffer s t) (i : PinIx) : PinMoved s t i := by
  rw [h]; exact .inl ⟨rfl, rfl⟩

theorem OnlyFlagsDiffer.trans_pinMoved (h : OnlyFlagsDiffer s u) (k : PinMoved u t i) : PinMoved s t i := by
  rw [h] at k; exact k

/-- No hook outside the block acts, and pins and IN are as in `s0` or went together. -/
structure InMoves (s0 s : State) : Prop where
  env : s.env = []
  pins : ∀ i, PinMoved s0 s i

theorem InMoves.refl (hs : s.Silent) : InMoves s s := ⟨hs, fun _ => .inl ⟨rfl, rfl⟩⟩

end

/-- No hook outside the block acts, and the PORT's registers and the pins are those of `s0`. -/
def PortAs (s0 : State) (_ : List BusId) (s : State) : Prop := s.env = [] ∧ s.port = s0.port ∧ s.pins = s0.pins

theorem keptByDelivery_portAs (s0 : State) (h : Handler) : KeptByDelivery (PortAs s0) h :=
  have hac : ∀ {d s t}, OnlyAcDiffers s t → PortAs s0 d s → PortAs s0 d t := fun e p => by rw [e.rest]; exact p
  { ac := hac
    call := kept_callOutside_silent (P := PortAs s0) hac (fun p => p.1) h
    push := fun _ _ _ p _ => p
    pop := fun _ _ _ _ _ p _ => p }

theorem PortAs.inMoves {s0 s : State} {d : List BusId} (h : PortAs s0 d s) : InMoves s0 s := by
  obtain ⟨henv, hport, hpins⟩ := h
  exact ⟨henv, fun i => .inl ⟨by simp only [State.pin, hpins], by rw [hport]⟩⟩

section

variable {s t : State} {h : Handler}

theorem redriveAll_inMoves (hr : s.Registered) (hs : s.Silent) (hd : s.delivering = [])
    (hq : s.portReq = (s.port.intflags != 0)) (e : redriveAll h s = .next t) : InMoves s t := by
  obtain ⟨u, hu, du⟩ := redriveAll_silent h (fun _ => hr.pinHook) hs hd hq
  obtain rfl : u = t := by rw [hu] at e; injection e
  exact ⟨du.rest.env.trans hs, du.pinMoved⟩

theorem drive_inMoves {i : PinIx} {st : PinState} (hr : s.Registered) (hs : s.Silent) (hd : s.delivering = [])
    (hq : s.portReq = (s.port.intflags != 0)) (hi : s.cfg.hasPin i = true) (e : drive h i st s = .next t) :
    InMoves s t := by
  obtain ⟨u, hu, du⟩ := drive_drivenTo h i st (hr.pinHook hi) hs hd hq
  obtain rfl : u = t := by rw [hu] at e; injection e
  exact ⟨du.rest.env.trans hs, du.pinMoved⟩

theorem writePinctrl_inMoves {n : PinIx} {v : Byte} (ho : s.Operating) (hs : s.Silent)
    (e : writePinctrl h n v s = .next t) : InMoves s t := by
  rcases writePinctrl_next e with rfl | ⟨hn, e⟩
  · exact .refl hs
  · have hf := onlyFlagsDiffer_levelCheck (s.setPinctrl n v) n
    have hok : ((s.setPinctrl n v).levelCheck n).PortOk :=
      ((ho.inv.port ho.ready).setPinctrl v hn).levelCheck (s := s.setPinctrl n v) hn
    have hreg := ho.inv.registered (.inr ho.ready)
    generalize (s.setPinctrl n v).levelCheck n = u at hf hok e
    have hcfg : u.cfg = s.cfg := by rw [hf]; rfl
    have hu : u.Registered := ⟨hcfg ▸ hreg.initOk, by rw [hf]; exact hreg.claims, by rw [hf]; exact hreg.subs⟩
    have hsu : u.Silent := by rw [hf]; exact hs
    rcases e with rfl | e
    · exact ⟨hsu, fun i => hf.pinMoved i⟩
    · have moves := drive_inMoves hu hsu (by rw [hf]; exact ho.inv.delivering) hok.portReq (hcfg ▸ hn) e
      exact ⟨moves.env, fun i => hf.trans_pinMoved (moves.pins i)⟩

theorem portWrite_inMoves {reg : PortReg} {v : Byte} (ho : s.Operating) (hs : s.Silent)
    (e : portWrite h reg v s = .next t) : InMoves s t := by
  have hr := ho.inv.registered (.inr ho.ready)
  have hq := (ho.inv.port ho.ready).portReq
  rcases portWrite_cases h reg v s with ⟨w, -, e'⟩ | ⟨w, -, e'⟩ | ⟨-, e'⟩ | ⟨n, e'⟩ | e' <;> rw [e'] at e
  · have moves := redriveAll_inMoves (s := s.setDir w) ⟨hr.initOk, hr.claims, hr.subs⟩ hs ho.inv.delivering hq e
    exact ⟨moves.env, moves.pins⟩
  · have moves := redriveAll_inMoves (s := s.setOut w) ⟨hr.initOk, hr.claims, hr.subs⟩ hs ho.inv.delivering hq e
    exact ⟨moves.env, moves.pins⟩
  · have hf := onlyFlagsDiffer_writeIntflags e
    exact ⟨by rw [hf]; exact hs, hf.pinMoved⟩
  · exact writePinctrl_inMoves ho hs e
  · injection e with e; subst e; exact .refl hs

/-- In an operating block with a silent environment every transaction but RESET moves IN with the pins (R25, R195). -/
theorem transact_inMoves {q : Request} (ho : s.Operating) (hs : s.Silent) (hq : q ≠ .reset)
    (e : transact q s = .next t) : InMoves s t := by
  obtain ⟨-, ha, e⟩ := transact_next e
  by_cases hsp : sparesPort q = true
  · exact ((keptByDelivery_portAs s topHandler).kept_sparing hsp [] s (.inr ho.ready) ⟨hs, rfl, rfl⟩ t e).2.inMoves
  · cases q with
    | write r off v =>
      have hne : r ≠ .ac := fun h0 => hsp (by rw [h0]; rfl)
      rcases busWrite_port_next hne e with rfl | ⟨reg, -, e⟩
      · exact .refl hs
      · exact portWrite_inMoves ho hs e
    | pinset n st =>
      change pinsetOp topHandler n st s = .next t at e
      unfold pinsetOp at e
      split at e
      · exact drive_inMoves (ho.inv.registered (.inr ho.ready)) hs ho.inv.delivering (ho.inv.port ho.ready).portReq ‹_› e
      · cases e
    | reset => exact absurd rfl hq
    | init => simp [admission, ho.ready] at ha
    | _ => exact absurd rfl hsp

end

/-- What a transaction can be in a block with the invariant: INIT, RESET, or any other one of a Ready block (R344). -/
theorem transact_kind {q : Request} {s t : State} (hi : s.Inv) (e : transact q s = .next t) :
    (q = .init ∧ initOp s = .next t) ∨ (q = .reset ∧ s.Live) ∨ (q ≠ .reset ∧ s.Operating) := by
  obtain ⟨-, ha, hp⟩ := transact_next e
  by_cases h0 : q = .init
  · subst h0; exact .inl ⟨rfl, hp⟩
  · have l := live_of_admission h0 ha
    by_cases hr : q = .reset
    · exact .inr (.inl ⟨hr, l⟩)
    · exact .inr (.inr ⟨hr, hi, by_contra fun hn => hr (eq_reset_of_admission ha l hn)⟩)

/-- Settles O35: INIT leaves IN alone, and every other transaction but RESET moves it with the pins
(`transact_inMoves`). -/
theorem inChangesOnlyWithItsPin : Obligations.InChangesOnlyWithItsPin := by
  intro i s t k hi hs e hne
  obtain ⟨q, hq, e⟩ := exec_next e
  rcases transact_kind hi e with ⟨-, h⟩ | ⟨rfl, -⟩ | ⟨hr, ho⟩
  · exact absurd (by rw [(initOp_frame h).1]) hne
  · exact .inl (requestOfInstr_eq_reset.1 hq)
  · rcases (transact_inMoves ho hs hr e).pins k with ⟨-, h⟩ | ⟨st, h1, h2, -⟩
    · exact absurd h hne
    · exact .inr fun h => h1 (h.symm.trans h2)

theorem inputsSense_of_ungated {s : State} (h : s.cfg.portSleepGated = false) : s.inputsSense = true := by
  unfold State.inputsSense
  split
  · rfl
  · rw [h]; rfl

theorem InMoves.inFollowsPins {s t : State} (h : InMoves s t) (hg : s.cfg.portSleepGated = false)
    (hf : s.InFollowsPins) : t.InFollowsPins := by
  intro i st hp hsh
  rcases h.pins i with ⟨h1, h2⟩ | ⟨st', -, h1, h2⟩
  · rw [h2]; exact hf i st (h1 ▸ hp) hsh
  · obtain rfl : st' = st := Option.some.inj (h1.symm.trans hp)
    rw [h2, inputsSense_of_ungated hg, if_pos (by simpa using hsh)]

/-- RESET of a silent block: IN is 0 and the pins that have a state float (R48, R221). -/
theorem reset_inFollowsPins {s t : State} (hi : s.Inv) (l : s.Live) (hs : s.Silent)
    (e : transact .reset s = .next t) : t.Silent ∧ t.InFollowsPins := by
  obtain ⟨u, hu, hrest, -, hpins, -⟩ := resetCompletes s hi l hs
  obtain rfl : u = t := by rw [show transact .reset s = .next u from hu] at e; injection e
  refine ⟨by rw [hrest]; exact hs, fun i st hp hsh => ?_⟩
  have hin : u.port.inp = 0 := by rw [hrest]; rfl
  rw [hpins i] at hp
  split at hp
  · obtain rfl : PinState.floating = st := Option.some.inj hp
    rw [hin]; exact bitAt_zero i
  · cases hp

/-- Settles O57: after INIT the block is not Ready, RESET is `reset_inFollowsPins`, and every other transaction of a Ready
block moves IN with the pins (`transact_inMoves`). -/
theorem everyStepKeepsInFollowingThePins : Obligations.EveryStepKeepsInFollowingThePins := by
  intro s t hi hs hg hf e
  obtain ⟨x, rest, q, -, -, e⟩ := step_next e
  rcases transact_kind (hi.inbox rest) e with ⟨-, h⟩ | ⟨rfl, l⟩ | ⟨hr, ho⟩
  · obtain ⟨-, henv, hinit⟩ := initOp_frame h
    exact ⟨henv.trans hs, fun h => by rcases hinit with h' | h' <;> rw [h'] at h <;> cases h⟩
  · obtain ⟨hsil, hfol⟩ := reset_inFollowsPins (hi.inbox rest) l hs e
    exact ⟨hsil, fun _ => hfol⟩
  · have moves := transact_inMoves ho hs hr e
    exact ⟨moves.env, fun _ => moves.inFollowsPins hg (hf ho.ready)⟩

end Sys2Proof.Machine
end

section
/-! PROOFS. The registers as memory: accesses by absolute address (O9), reads without side effects (O18), and what
writes of DIR and OUT leave for a later access to find (O24, O25). -/

namespace Sys2Proof.Machine

open Sys2Proof

/-! ## Accesses by absolute address -/

section

variable {s : State} {a width off : Nat} {v : Byte} {r : Region}

theorem performInput_of_ok {x : Input} {q : Request} (h : requestOf s.cfg x = .ok q) :
    performInput x s = transact q s := by
  simp only [performInput, performInputWith, h, transact]

theorem performInput_of_error {x : Input} {e : Refusal} (h : requestOf s.cfg x = .error e) :
    performInput x s = .refused e := by
  simp only [performInput, performInputWith, h]

/-- R63, R66: an access inside a region is the bus transaction at its offset if it is one byte wide, else it is refused by
its width. -/
theorem accesses_inside (h : s.cfg.locate a = some (r, off)) :
    performInput (.load a 1) s = transact (.read r off) s ∧
    performInput (.store a 1 v) s = transact (.write r off v) s ∧
    (width ≠ 1 → performInput (.load a width) s = .refused .accessWidth) ∧
    (width ≠ 1 → performInput (.store a width v) s = .refused .accessWidth) ∧
    performInput (.fetch a) s = .refused .fetchFromIO := by
  refine ⟨performInput_of_ok ?_, performInput_of_ok ?_, fun hw => performInput_of_error ?_,
    fun hw => performInput_of_error ?_, performInput_of_error ?_⟩
  · simp [requestOf, h]
  · simp [requestOf, h]
  · simp [requestOf, h, hw]
  · simp [requestOf, h, hw]
  · simp [requestOf, h]

/-- R72: outside the regions the address is refused, whatever the access. -/
theorem accesses_outside (h : s.cfg.locate a = none) :
    performInput (.load a width) s = .refused .unclaimed ∧
    performInput (.store a width v) s = .refused .unclaimed ∧
    performInput (.fetch a) s = .refused .unclaimed := by
  refine ⟨performInput_of_error ?_, performInput_of_error ?_, performInput_of_error ?_⟩
  · simp only [requestOf, h]
  · simp only [requestOf, h]
  · simp only [requestOf, h]

end

/-- Settles O9, inside and outside the regions: the verdict on the address is the verdict of `requestOf`. -/
theorem accessesByAddress : Obligations.AccessesByAddress :=
  fun _ _ _ _ => ⟨fun _ _ h => accesses_inside h, accesses_outside⟩

/-! ## Bus reads -/

/-- What a read gives does not depend on the trace. -/
@[simp] theorem State.emit_peek (s : State) (e : Event) (r : Region) (off : Nat) :
    (s.emit e).peek r off = s.peek r off := rfl

/-- An admitted bus read whose address gives `b` completes with that datum (R152). -/
theorem transact_read_of_peek {s : State} {r : Region} {off : Nat} {b : Byte}
    (hc : Request.claimed s.cfg (.read r off) = true) (ha : admission s.init (.read r off) = none)
    (hb : s.peek r off = some b) : transact (.read r off) s = .next (s.emit (.readData b)) := by
  simp only [transact, transactWith, if_pos hc, ha, performAdmitted, busRead, hb]

/-- R68: a bus read adds one read datum to the trace, and as the trace decides nothing about a read, the next one does the
same. -/
theorem transact_read_repeats {s t : State} {r : Region} {off : Nat} (e : transact (.read r off) s = .next t) :
    ∃ b, t = s.emit (.readData b) ∧ transact (.read r off) t = .next (t.emit (.readData b)) := by
  obtain ⟨hc, ha, e⟩ := transact_next e
  obtain ⟨b, hb, rfl⟩ := busRead_next e
  exact ⟨b, rfl, transact_read_of_peek hc ha hb⟩

/-- R91: a word with `Z = 0`, `W = 0` and a region in `R` is the bus read at its offset. -/
theorem requestOfInstr_decode_read {w : Tw20} {u : Volt} (hz : fieldZ w = false) (hw : fieldW w = false)
    (hr : fieldR w ≠ 3#2) :
    requestOfInstr (decode w u) = some (.read (regionOfField (fieldR w)) (fieldO w).toNat) := by
  have h : fieldR w = 0#2 ∨ fieldR w = 1#2 ∨ fieldR w = 2#2 := by
    revert hr; generalize fieldR w = r; revert r; decide
  unfold decode
  rw [hz, hw]
  rcases h with h | h | h <;> rw [h]
  · exact requestOfInstr_decodeRdPort _
  · exact requestOfInstr_decodeRdVport _
  · exact requestOfInstr_decodeRdAc _

theorem exec_decode_read {w : Tw20} {u : Volt} (hz : fieldZ w = false) (hw : fieldW w = false) (hr : fieldR w ≠ 3#2)
    (s : State) : exec (decode w u) s = transact (.read (regionOfField (fieldR w)) (fieldO w).toNat) s := by
  rw [exec_eq, requestOfInstr_decode_read hz hw hr]

/-- Settles O18: a read word is the bus read of its region and offset, and that one repeats (`transact_read_repeats`). -/
theorem busReadsHaveNoSideEffects : Obligations.BusReadsHaveNoSideEffects := by
  refine ⟨fun w u s t hz hw hr e => ?_, fun r off s t e => transact_read_repeats e⟩
  rw [exec_decode_read hz hw hr] at e ⊢
  exact transact_read_repeats e

/-! ## Writes of the DIR and OUT families -/

theorem transact_operating {q : Request} {s t : State} (ho : s.Operating) (hq : q ≠ .init)
    (e : transact q s = .next t) (hr : t.init = .ready) : t.Operating :=
  ⟨transact_inv ho.inv hq e, hr⟩

/-- A PORT write that re-drives the pins from `u`, where `u` is the state with DIR or OUT changed, completes in an operating
block with a silent environment, which stays operating and silent (R191). -/
theorem transact_write_redrives {s u : State} {off : Nat} {v : Byte} (ho : s.Operating) (hs : s.Silent)
    (hc : s.cfg.claimsOffset .port off = true) (hu : OnlyPortDiffers s u)
    (hflags : u.port.intflags = s.port.intflags) (hreq : u.portReq = s.portReq)
    (hw : portWrite topHandler (s.cfg.portReg off) v s = redriveAll topHandler u) :
    ∃ t, transact (.write .port off v) s = .next t ∧ t.Operating ∧ t.Silent ∧ Redriven u t := by
  have hreg := ho.inv.registered (.inr ho.ready)
  obtain ⟨t, ht, hd⟩ := redriveAll_silent (s := u) topHandler
    (fun i hi => by rw [hu.subscribers]; exact hreg.pinHook (hu.cfg ▸ hi))
    (hu.env.trans hs) (hu.delivering.trans ho.inv.delivering)
    (by rw [hreq, hflags]; exact (ho.inv.port ho.ready).portReq)
  have e : transact (.write .port off v) s = .next t := (transact_write ho hc).trans (hw.trans ht)
  have hst := hu.trans hd.rest
  exact ⟨t, e, transact_operating ho (by simp) e (by rw [hst]; exact ho.ready), hst.env.trans hs, hd⟩

/-- The same of a write that has completed. -/
theorem redriven_of_write_next {s t u : State} {off : Nat} {v : Byte} (ho : s.Operating) (hs : s.Silent)
    (hu : OnlyPortDiffers s u) (hflags : u.port.intflags = s.port.intflags) (hreq : u.portReq = s.portReq)
    (hw : portWrite topHandler (s.cfg.portReg off) v s = redriveAll topHandler u)
    (e : transact (.write .port off v) s = .next t) : t.Operating ∧ t.Silent ∧ Redriven u t := by
  obtain ⟨t', e', h⟩ := transact_write_redrives ho hs (transact_next e).1 hu hflags hreq hw
  obtain rfl : t' = t := by injection e'.symm.trans e
  exact h

section

variable {s t : State} {v : Byte}

theorem exec_wrPortDir (ho : s.Operating) (hs : s.Silent) (hc : s.cfg.claimsOffset .port 0x00 = true) :
    ∃ t, exec (.wrPortDir v) s = .next t ∧ t.Operating ∧ t.Silent ∧ Redriven (s.setDir (s.maskPins v)) t :=
  transact_write_redrives ho hs hc rfl rfl rfl rfl

theorem exec_wrPortOut (ho : s.Operating) (hs : s.Silent) (hc : s.cfg.claimsOffset .port 0x04 = true) :
    ∃ t, exec (.wrPortOut v) s = .next t ∧ t.Operating ∧ t.Silent ∧ Redriven (s.setOut (s.maskPins v)) t :=
  transact_write_redrives ho hs hc rfl rfl rfl rfl

theorem exec_wrPortDirtgl_next (ho : s.Operating) (hs : s.Silent) (e : exec (.wrPortDirtgl v) s = .next t) :
    t.Operating ∧ t.Silent ∧ Redriven (s.setDir (s.port.dir ^^^ s.maskPins v)) t :=
  redriven_of_write_next (off := 0x03) ho hs rfl rfl rfl rfl e

theorem exec_wrPortOuttgl_next (ho : s.Operating) (hs : s.Silent) (e : exec (.wrPortOuttgl v) s = .next t) :
    t.Operating ∧ t.Silent ∧ Redriven (s.setOut (s.port.out ^^^ s.maskPins v)) t :=
  redriven_of_write_next (off := 0x07) ho hs rfl rfl rfl rfl e

/-- R70: toggling the masked bits a second time undoes the first. -/
theorem xor_maskPins_twice (hcfg : t.cfg = s.cfg) (v w : Byte) : (w ^^^ s.maskPins v) ^^^ t.maskPins v = w := by
  simp only [State.maskPins, hcfg, BitVec.xor_assoc, BitVec.xor_self, BitVec.xor_zero]

end

/-- Settles O24: each toggle leaves the register XOR the masked byte, and the second XOR undoes the first
(`xor_maskPins_twice`). -/
theorem togglingTwiceRestores : Obligations.TogglingTwiceRestores := by
  intro s t t' v ho hs
  refine ⟨fun e e' => ?_, fun e e' => ?_⟩
  · obtain ⟨ho', hs', hd⟩ := exec_wrPortDirtgl_next ho hs e
    obtain ⟨-, -, hd'⟩ := exec_wrPortDirtgl_next ho' hs' e'
    calc t'.port.dir = t.port.dir ^^^ t.maskPins v := hd'.dir
      _ = (s.port.dir ^^^ s.maskPins v) ^^^ t.maskPins v := by rw [hd.dir, State.setDir_port_dir]
      _ = s.port.dir := xor_maskPins_twice (s := s) hd.rest.cfg v _
  · obtain ⟨ho', hs', hd⟩ := exec_wrPortOuttgl_next ho hs e
    obtain ⟨-, -, hd'⟩ := exec_wrPortOuttgl_next ho' hs' e'
    calc t'.port.out = t.port.out ^^^ t.maskPins v := hd'.out
      _ = (s.port.out ^^^ s.maskPins v) ^^^ t.maskPins v := by rw [hd.out, State.setOut_port_out]
      _ = s.port.out := xor_maskPins_twice (s := s) hd.rest.cfg v _

/-! ## Loop-back -/

/-- A re-drive with sensing inputs keeps IN at the levels of the pins (R25, R195). -/
theorem Redriven.inFollowsPins {s t : State} (h : Redriven s t) (hin : s.inputsSense = true) (hf : s.InFollowsPins) :
    t.InFollowsPins := by
  intro i st hp hsh
  rcases h.pinMoved i with ⟨hsame, hbit⟩ | ⟨st', -, hp', hbit⟩
  · rw [hbit]; exact hf i st (hsame ▸ hp) hsh
  · obtain rfl : st' = st := Option.some.inj (hp'.symm.trans hp)
    rw [hbit, hin, if_pos (by simpa using hsh)]

theorem OnlyPortDiffers.outputsDrive {s t : State} (h : OnlyPortDiffers s t) : t.outputsDrive = s.outputsDrive := by
  rw [h]; rfl

/-- With the pin an output, the driven state is OUT's bit as a level, and the pin is not Shorted (R190). -/
theorem drivenState_of_output {s : State} {i : PinIx} (h : bitAt s.port.dir i = true) :
    pinLevel (s.drivenState i) = bitAt s.port.out i ∧ s.drivenState i ≠ .shorted := by
  unfold State.drivenState
  rw [if_pos h]
  cases bitAt s.port.out i
  · exact ⟨rfl, nofun⟩
  · exact ⟨rfl, nofun⟩

/-- After a re-drive with every pin an output, IN is OUT on the existing pins (R75). -/
theorem Redriven.in_eq_out {s t : State} (h : Redriven s t) (hin : s.inputsSense = true) (hout : s.outputsDrive = true)
    (hf : s.InFollowsPins) (hdir : ∀ i, s.cfg.hasPin i = true → bitAt s.port.dir i = true) :
    t.port.inp &&& s.cfg.pinMask = s.port.out &&& s.cfg.pinMask := bitAt_ext fun i => by
  rw [bitAt_and, bitAt_and, ← hasPin_eq]
  cases hi : s.cfg.hasPin i
  · simp only [Bool.and_false]
  · obtain ⟨hlevel, hne⟩ := drivenState_of_output (hdir i hi)
    have hpin : t.pin i = some (s.drivenState i) := by rw [h.pins i, if_pos (by simp [State.redrives, hi, hout])]
    rw [h.inFollowsPins hin hf i _ hpin hne, hlevel]

theorem exec_rdPortIn {s : State} (ho : s.Operating) (hc : s.cfg.claimsOffset .port 0x08 = true) :
    exec .rdPortIn s = .next (s.emit (.readData (s.port.inp &&& s.cfg.pinMask))) :=
  transact_read ho hc

/-- Writing 0xFF to DIR makes every existing pin an output (R171). -/
theorem bitAt_maskPins_ones (s : State) (i : PinIx) : bitAt (s.maskPins 0xFF) i = s.cfg.hasPin i := by
  have hone : ∀ k : PinIx, bitAt 0xFF k = true := by decide
  rw [State.maskPins, bitAt_and, hone, Bool.true_and, hasPin_eq]

/-- Settles O25: WR DIR makes every pin an output and leaves IN following the pins, so after WR OUT the existing pins'
bits of IN are OUT's (`Redriven.in_eq_out`). -/
theorem loopBackReadReturnsOut : Obligations.LoopBackReadReturnsOut := by
  intro s v ho hs hf hl hin hout
  have claimed : ∀ off < 0x20, s.cfg.claimsOffset .port off = true := fun off h => by
    rw [(claimsOffset_of_defaultLayout hl off).1]; exact decide_eq_true h
  obtain ⟨t, e, ho₁, hs₁, hd⟩ := exec_wrPortDir (v := 0xFF) ho hs (claimed 0x00 (by decide))
  have hst : OnlyPortDiffers s t := OnlyPortDiffers.trans (t := s.setDir (s.maskPins 0xFF)) rfl hd.rest
  have hdir : ∀ i, t.cfg.hasPin i = true → bitAt t.port.dir i = true := fun i hi => by
    rw [hd.dir, State.setDir_port_dir, bitAt_maskPins_ones, ← hst.cfg, hi]
  have hfollow : t.InFollowsPins := hd.inFollowsPins hin hf
  obtain ⟨t', e', ho₂, -, hd'⟩ := exec_wrPortOut (v := v) ho₁ hs₁ (by rw [hst.cfg]; exact claimed 0x04 (by decide))
  have hst' : OnlyPortDiffers s t' := hst.trans (OnlyPortDiffers.trans (t := t.setOut (t.maskPins v)) rfl hd'.rest)
  have hread : t'.port.inp &&& t'.cfg.pinMask = v &&& s.cfg.pinMask := by
    have hloop := hd'.in_eq_out (hst.inputsSense.trans hin) (hst.outputsDrive.trans hout) hfollow hdir
    rw [State.setOut_cfg, State.setOut_port_out, State.maskPins, hst.cfg, BitVec.and_assoc, BitVec.and_self] at hloop
    rw [hst'.cfg, hloop]
  exact ⟨t, t', e, e', by rw [exec_rdPortIn ho₂ (by rw [hst'.cfg]; exact claimed 0x08 (by decide)), hread]⟩

end Sys2Proof.Machine
end

section
/-! PROOFS. The encoding: the decoder inverts the encoder (O1), every word is of one well-formed row (O2), and the bits a
row ignores (O5). -/

namespace Sys2Proof.Machine

open Sys2Proof

/-! ## Decoding an encoding -/

section

open Laws.RoundTrip

/-- The family `RoundTrip` has a lemma for every constructor, each under the constructor's name. -/
theorem roundTrip (i : Instr) : Laws.RoundTrip.Statement i :=
  Instr.rec (motive := Laws.RoundTrip.Statement)
    rdPortDir rdPortDirset rdPortDirclr rdPortDirtgl rdPortOut rdPortOutset rdPortOutclr rdPortOuttgl rdPortIn
    rdPortIntflags rdPortPin0ctrl rdPortPin1ctrl rdPortPin2ctrl rdPortPin3ctrl rdPortPin4ctrl rdPortPin5ctrl
    rdPortPin6ctrl rdPortPin7ctrl rdPortReserved0A rdPortReserved0C rdPortReserved18 rdPortUnclaimed20
    rdPortUnclaimed40 rdPortUnclaimed80 wrPortDir wrPortDirset wrPortDirclr wrPortDirtgl wrPortOut wrPortOutset
    wrPortOutclr wrPortOuttgl wrPortIn wrPortIntflags wrPortPin0ctrl wrPortPin1ctrl wrPortPin2ctrl wrPortPin3ctrl
    wrPortPin4ctrl wrPortPin5ctrl wrPortPin6ctrl wrPortPin7ctrl wrPortReserved0A wrPortReserved0C wrPortReserved18
    wrPortUnclaimed20 wrPortUnclaimed40 wrPortUnclaimed80 rdVportDir rdVportOut rdVportIn rdVportIntflags
    rdVportUnclaimed04 rdVportUnclaimed08 rdVportUnclaimed10 rdVportUnclaimed20 rdVportUnclaimed40
    rdVportUnclaimed80 wrVportDir wrVportOut wrVportIn wrVportIntflags wrVportUnclaimed04 wrVportUnclaimed08
    wrVportUnclaimed10 wrVportUnclaimed20 wrVportUnclaimed40 wrVportUnclaimed80 rdAcCtrla rdAcMuxctrla rdAcIntctrl
    rdAcStatus rdAcReserved01 rdAcReserved03 rdAcReserved04 rdAcUnclaimed08 rdAcUnclaimed10 rdAcUnclaimed20
    rdAcUnclaimed40 rdAcUnclaimed80 wrAcCtrla wrAcMuxctrla wrAcIntctrl wrAcStatus wrAcReserved01 wrAcReserved03
    wrAcReserved04 wrAcUnclaimed08 wrAcUnclaimed10 wrAcUnclaimed20 wrAcUnclaimed40 wrAcUnclaimed80 pinsetLow
    pinsetHigh pinsetFloating pinsetPullUp pinsetPullDown pinsetAnalog pinsetShorted pinsetState7 reset init sleep
    wake achan aref getAcOut getAcRef getPortSignal eventReserved0A eventReserved0C eventReserved10 eventReserved20
    eventReserved40 eventReserved80 eventWrite zReserved i

end

/-- Settles O1: the family `RoundTrip`, put together over the constructors. -/
theorem decodeInvertsEncode : Obligations.DecodeInvertsEncode := roundTrip

/-! ## The rows of words -/

theorem fieldR_cases (w : Tw20) : fieldR w = 0#2 ∨ fieldR w = 1#2 ∨ fieldR w = 2#2 ∨ fieldR w = 3#2 := by
  generalize fieldR w = r; revert r; decide

/-- R91: by its fields `Z`, `R` and `W` a word is a bus read or write of a region, an EVENT word, or reserved. -/
theorem decode_induction {motive : (Volt → Instr) → Prop} (w : Tw20)
    (rdPort : ∀ o, motive fun _ => decodeRdPort o) (wrPort : ∀ o d, motive fun _ => decodeWrPort o d)
    (rdVport : ∀ o, motive fun _ => decodeRdVport o) (wrVport : ∀ o d, motive fun _ => decodeWrVport o d)
    (rdAc : ∀ o, motive fun _ => decodeRdAc o) (wrAc : ∀ o d, motive fun _ => decodeWrAc o d)
    (event : ∀ o d, motive (decodeEvent o d)) (eventWrite : ∀ o d, motive fun _ => .eventWrite o d)
    (zReserved : ∀ r b o d, motive fun _ => .zReserved r b o d) : motive (decode w) := by
  show motive fun u => decode w u
  unfold decode
  cases fieldZ w
  case true => exact zReserved ..
  case false =>
    rcases fieldR_cases w with h | h | h | h <;> rw [h] <;> cases fieldW w
    · exact rdPort _
    · exact wrPort ..
    · exact rdVport _
    · exact wrVport ..
    · exact rdAc _
    · exact wrAc ..
    · exact event ..
    · exact eventWrite ..

theorem wellFormed_decodeRdPort (o : Byte) : (decodeRdPort o).wellFormed = true := by
  unfold decodeRdPort
  split
  case h_19 => have := o.isLt; split_ifs <;> grind [Instr.wellFormed, inRange_iff]
  all_goals rfl

theorem wellFormed_decodeWrPort (o d : Byte) : (decodeWrPort o d).wellFormed = true := by
  unfold decodeWrPort
  split
  case h_19 => have := o.isLt; split_ifs <;> grind [Instr.wellFormed, inRange_iff]
  all_goals rfl

theorem wellFormed_decodeRdVport (o : Byte) : (decodeRdVport o).wellFormed = true := by
  unfold decodeRdVport
  split
  case h_5 => have := o.isLt; split_ifs <;> grind [Instr.wellFormed, inRange_iff]
  all_goals rfl

theorem wellFormed_decodeWrVport (o d : Byte) : (decodeWrVport o d).wellFormed = true := by
  unfold decodeWrVport
  split
  case h_5 => have := o.isLt; split_ifs <;> grind [Instr.wellFormed, inRange_iff]
  all_goals rfl

theorem wellFormed_decodeRdAc (o : Byte) : (decodeRdAc o).wellFormed = true := by
  unfold decodeRdAc
  split
  case h_7 => have := o.isLt; split_ifs <;> grind [Instr.wellFormed, inRange_iff]
  all_goals rfl

theorem wellFormed_decodeWrAc (o d : Byte) : (decodeWrAc o d).wellFormed = true := by
  unfold decodeWrAc
  split
  case h_7 => have := o.isLt; split_ifs <;> grind [Instr.wellFormed, inRange_iff]
  all_goals rfl

/-! ### EVENT words -/

/-- A PINSET argument with a state code other than 7 (R103). -/
theorem decodeEvent_pinset {d : Byte} {st : PinState} (h : PinState.ofCode (pinsetCode d) = some st) (u : Volt) :
    decodeEvent 0x00#8 d u = pinsetOf st (pinsetPin d) := by
  unfold decodeEvent
  rw [h]
  cases st <;> rfl

theorem decodeEvent_pinset_reserved {d : Byte} (h : PinState.ofCode (pinsetCode d) = none) (u : Volt) :
    decodeEvent 0x00#8 d u = .pinsetState7 d := by
  unfold decodeEvent
  rw [h]
  rfl

theorem wellFormed_pinsetOf (st : PinState) (n : PinIx) : (pinsetOf st n).wellFormed = true := by cases st <;> rfl

theorem wellFormed_decodePinset (d : Byte) (u : Volt) : (decodeEvent 0x00#8 d u).wellFormed = true := by
  cases h : PinState.ofCode (pinsetCode d) with
  | none =>
    rw [decodeEvent_pinset_reserved h]
    exact beq_iff_eq.2 ((pinState_ofCode_none _).1 h)
  | some st => rw [decodeEvent_pinset h, wellFormed_pinsetOf]

theorem wellFormed_decodeEvent (o d : Byte) (u : Volt) : (decodeEvent o d u).wellFormed = true := by
  by_cases ho : o = 0x00#8
  · rw [ho, wellFormed_decodePinset]
  · unfold decodeEvent
    split
    case h_1 h => exact absurd (BitVec.eq_of_toNat_eq h) ho
    case h_11 => have := o.isLt; split_ifs <;> grind [Instr.wellFormed, inRange_iff]
    all_goals rfl

theorem wellFormed_decode (w : Tw20) (u : Volt) : (decode w u).wellFormed = true :=
  decode_induction (motive := fun f => (f u).wellFormed = true) w wellFormed_decodeRdPort wellFormed_decodeWrPort
    wellFormed_decodeRdVport wellFormed_decodeWrVport wellFormed_decodeRdAc wellFormed_decodeWrAc
    (wellFormed_decodeEvent · · u) (fun _ _ => rfl) fun _ _ _ _ => rfl

/-! ### The out-of-band operand -/

/-- The instruction with `u` for its operand, where it has one (R90). -/
def withOperand (u : Volt) : Instr → Instr
  | .achan k _ => .achan k u
  | .aref _ => .aref u
  | i => i

theorem withOperand_eq_self {i : Instr} {q : Request} (hq : requestOfInstr i = some q) (ha : ∀ k v, q ≠ .achan k v)
    (hr : ∀ v, q ≠ .aref v) (u : Volt) : withOperand u i = i := by
  unfold withOperand
  split
  · exact absurd (Option.some.inj hq).symm (ha _ _)
  · exact absurd (Option.some.inj hq).symm (hr _)
  · rfl

theorem withOperand_pinsetOf (st : PinState) (n : PinIx) (u : Volt) :
    withOperand u (pinsetOf st n) = pinsetOf st n := by
  cases st <;> rfl

theorem withOperand_decodeEvent (o d : Byte) (u v : Volt) : withOperand v (decodeEvent o d u) = decodeEvent o d v := by
  by_cases ho : o = 0x00#8
  · rw [ho]
    cases h : PinState.ofCode (pinsetCode d) with
    | none => rw [decodeEvent_pinset_reserved h, decodeEvent_pinset_reserved h]; rfl
    | some st => rw [decodeEvent_pinset h, decodeEvent_pinset h, withOperand_pinsetOf]
  · unfold decodeEvent
    split
    case h_1 h => exact absurd (BitVec.eq_of_toNat_eq h) ho
    case h_11 => split_ifs <;> rfl
    all_goals rfl

/-- R90: the operand beside a word goes to ACHAN and AREF alone and decides nothing of the row. -/
theorem withOperand_decode (w : Tw20) (u v : Volt) : withOperand v (decode w u) = decode w v :=
  decode_induction (motive := fun f => withOperand v (f u) = f v) w
    (fun o => withOperand_eq_self (requestOfInstr_decodeRdPort o) nofun nofun v)
    (fun o d => withOperand_eq_self (requestOfInstr_decodeWrPort o d) nofun nofun v)
    (fun o => withOperand_eq_self (requestOfInstr_decodeRdVport o) nofun nofun v)
    (fun o d => withOperand_eq_self (requestOfInstr_decodeWrVport o d) nofun nofun v)
    (fun o => withOperand_eq_self (requestOfInstr_decodeRdAc o) nofun nofun v)
    (fun o d => withOperand_eq_self (requestOfInstr_decodeWrAc o d) nofun nofun v)
    (withOperand_decodeEvent · · u v) (fun _ _ => rfl) fun _ _ _ _ => rfl

/-- Settles O2: the row is well-formed, so its canonical word decodes to it with the operand the row holds (O1), and the
given operand takes that one's place on both sides. -/
theorem everyWordDecodesToItsRow : Obligations.EveryWordDecodesToItsRow := by
  intro w u
  have hwf := wellFormed_decode w u
  refine ⟨hwf, ?_⟩
  calc decode (encode (decode w u)) u
    _ = withOperand u (decode (encode (decode w u)) (operandOf (decode w u))) := (withOperand_decode ..).symm
    _ = withOperand u (decode w u) := by rw [decodeInvertsEncode _ hwf]
    _ = decode w u := withOperand_decode w u u

/-! ## Ignored bits -/

/-- What R96 says of the canonical word of a read. -/
def CanonicalRead (w : Tw20) : Prop := fieldZ w = false → fieldW w = false → fieldR w ≠ 3#2 → fieldD w = 0

theorem canonicalRead_encodeRead (r : BitVec 2) (o : Byte) : CanonicalRead (encodeRead r o) :=
  fun _ _ _ => fieldD_twWord ..

theorem canonicalRead_write (r : BitVec 2) (z : Bool) (o d : Byte) : CanonicalRead (twWord r true z o d) :=
  fun _ hw _ => by rw [fieldW_twWord] at hw; cases hw

theorem canonicalRead_encodeEvent (o d : Byte) : CanonicalRead (encodeEvent o d) :=
  fun _ _ hr => absurd (fieldR_twWord ..) hr

theorem canonicalRead_zReserved (r : BitVec 2) (w : Bool) (o d : Byte) : CanonicalRead (twWord r w true o d) :=
  fun hz _ _ => by rw [fieldZ_twWord] at hz; cases hz

/-- R96: the encoder makes a read's word by `encodeRead`, and every other word is no read's. -/
theorem canonicalRead_encode (i : Instr) : CanonicalRead (encode i) := by
  cases i <;> simp only [encode, encodeWrite, canonicalRead_encodeRead, canonicalRead_write, canonicalRead_encodeEvent,
    canonicalRead_zReserved]

section

variable {w : Tw20} {u : Volt}

/-- R96: a read word is the transaction of its canonical word, which has the same region and offset. -/
theorem decode_read (hz : fieldZ w = false) (hw : fieldW w = false) (hr : fieldR w ≠ 3#2) :
    decode w u = decode (encodeRead (fieldR w) (fieldO w)) u := by
  rw [decode_encodeRead]
  unfold decode
  rw [hz, hw]
  rcases fieldR_cases w with h | h | h | h
  · rw [h]; rfl
  · rw [h]; rfl
  · rw [h]; rfl
  · exact absurd h hr

theorem decode_event (hz : fieldZ w = false) (hw : fieldW w = false) (hr : fieldR w = 3#2) :
    decode w u = decodeEvent (fieldO w) (fieldD w) u := by
  unfold decode
  rw [hz, hw, hr]
  rfl

/-- R97: the events without an argument. -/
theorem decodeEvent_ignores {o : Byte} (ho : o ∈ [0x01#8, 0x02#8, 0x04#8, 0x06#8, 0x07#8, 0x08#8, 0x09#8])
    (d d' : Byte) : decodeEvent o d u = decodeEvent o d' u := by
  simp only [List.mem_cons, List.not_mem_nil, or_false] at ho
  rcases ho with rfl | rfl | rfl | rfl | rfl | rfl | rfl <;> rfl

/-- R97: PINSET reads the pin and the state code of its argument. -/
theorem decodeEvent_pinset_congr {d d' : Byte} (hn : pinsetPin d = pinsetPin d') (hc : pinsetCode d = pinsetCode d')
    (h7 : pinsetCode d ≠ 7#3) : decodeEvent 0x00#8 d u = decodeEvent 0x00#8 d' u := by
  obtain ⟨st, h⟩ := Option.ne_none_iff_exists'.1 (mt (pinState_ofCode_none _).1 h7)
  rw [decodeEvent_pinset h, decodeEvent_pinset (hc ▸ h), hn]

theorem decodeEvent_sleep (d : Byte) : decodeEvent 0x03#8 d u = .sleep (d.extractLsb' 0 3) := rfl

end

/-- Settles O5: reads through their canonical words (`decode_read`), events through what `decodeEvent` reads of the
argument. -/
theorem ignoredBitsDoNotMatter : Obligations.IgnoredBitsDoNotMatter := by
  refine ⟨fun i _ => canonicalRead_encode i, fun w w' u hz hz' hw hw' hR hO => ⟨fun hr => ?_, ?_⟩⟩
  · rw [decode_read hz hw hr, decode_read hz' hw' (hR ▸ hr), hR, hO]
  · have event (hr : fieldR w = 3#2) (h : decodeEvent (fieldO w) (fieldD w) u = decodeEvent (fieldO w) (fieldD w') u) :
        decode w u = decode w' u := by
      rw [decode_event hz hw hr, decode_event hz' hw' (hR ▸ hr), ← hO, h]
    refine ⟨fun hr ho => event hr (decodeEvent_ignores ho _ _), fun hr ho hn hc h7 => event hr ?_,
      fun hr ho hm => event hr ?_⟩
    · rw [ho, decodeEvent_pinset_congr hn hc h7]
    · rw [ho, decodeEvent_sleep, decodeEvent_sleep, hm]

end Sys2Proof.Machine
end

section
/-! PROOFS. The words that are refused and those that do nothing: the two decoders (O3), reserved encodings (O6), offsets
outside a span (O7) and claimed offsets without a register (O19). -/

namespace Sys2Proof.Machine

open Sys2Proof

/-- Settles O3: the table row of a word performs the transaction R91's decoder reads from it (`exec_decode`). -/
theorem tableDecoderAgreesWithR91 : Obligations.TableDecoderAgreesWithR91 := exec_decode

/-! ## Reserved encodings -/

theorem exec_reserved {i : Instr} (h : requestOfInstr i = none) (s : State) :
    exec i s = .refused .reservedEncoding := by
  rw [exec_eq, h]

/-- R111: a mode the device does not define. -/
theorem exec_sleep_unknown {s : State} {m : SleepMode} (hr : s.init = .ready) (hm : m ∉ s.cfg.sleepModes) :
    exec (.sleep m) s = .refused .reservedEncoding :=
  (transact_ready (q := .sleep m) hr nofun rfl).trans (if_neg hm)

/-- Settles O6: the reserved rows perform no transaction (`exec_reserved`), and SLEEP looks its mode up. -/
theorem reservedEncodingsAreRefused : Obligations.ReservedEncodingsAreRefused :=
  ⟨fun s _ _ _ _ => by and_intros <;> exact exec_reserved rfl s, fun _ _ => exec_sleep_unknown⟩

/-! ## Rows of offsets that name no register -/

/-- With `PINCTRL_OFFSET` 0x10 the offset names no register of the region (R93 to R95). -/
def NamesNoRegister : Region → Nat → Prop
  | .port, off => (0x0A ≤ off ∧ off ≤ 0x0F) ∨ 0x18 ≤ off
  | .vport, off => 4 ≤ off
  | .ac, off => off = 1 ∨ (3 ≤ off ∧ off ≤ 5) ∨ 8 ≤ off

section

variable {r : Region} {off : Byte}

/-- A row of `reservedReads` or `unclaimedReads` is the read of an offset that names no register (R99, R100); where the row
covers one offset only, as two of the AC do, the range fixes it. -/
theorem undefinedReads_spec : ∀ row ∈ reservedReads r ++ unclaimedReads r, inRange row.1 row.2.1 off = true →
    requestOfInstr (row.2.2 off) = some (.read r off.toNat) ∧ NamesNoRegister r off.toNat := by
  cases r <;> simp [reservedReads, unclaimedReads, requestOfInstr, inRange_iff, NamesNoRegister] <;> omega

theorem undefinedWrites_spec {v : Byte} : ∀ row ∈ reservedWrites r ++ unclaimedWrites r,
    inRange row.1 row.2.1 off = true →
    requestOfInstr (row.2.2 off v) = some (.write r off.toNat v) ∧ NamesNoRegister r off.toNat := by
  cases r <;> simp [reservedWrites, unclaimedWrites, requestOfInstr, inRange_iff, NamesNoRegister] <;> omega

end

section

variable {c : Config} {r : Region}

/-- The rows of `unclaimedReads` begin at or above the default span of their region (R99). -/
theorem span_le_unclaimedReads (h : c.defaultLayout = true) : ∀ row ∈ unclaimedReads r, c.span r ≤ row.1 := by
  simp only [Config.defaultLayout, Bool.and_eq_true, beq_iff_eq] at h
  cases r <;> simp [unclaimedReads, Config.span, h]

theorem span_le_unclaimedWrites (h : c.defaultLayout = true) : ∀ row ∈ unclaimedWrites r, c.span r ≤ row.1 := by
  simp only [Config.defaultLayout, Bool.and_eq_true, beq_iff_eq] at h
  cases r <;> simp [unclaimedWrites, Config.span, h]

theorem claimsOffset_eq_false {off : Nat} (h : c.span r ≤ off) : c.claimsOffset r off = false := by
  simp [Config.claimsOffset, h]

end

/-! ## Unclaimed offsets -/

theorem exec_unclaimed {i : Instr} {q : Request} {s : State} (hq : requestOfInstr i = some q)
    (hc : Request.claimed s.cfg q = false) : exec i s = .refused .unclaimed := by
  rw [exec_eq, hq]
  exact transact_of_not_claimed (Bool.eq_false_iff.1 hc)

/-- R91, R99: the verdict on a bus word whose offset its region does not claim. -/
theorem requestOfWord_unclaimed {c : Config} {w : Tw20} {u : Volt} (hz : fieldZ w = false) (hr : fieldR w ≠ 3#2)
    (hc : c.claimsOffset (regionOfField (fieldR w)) (fieldO w).toNat = false) :
    requestOfWord c w u = .error .unclaimed := by
  simp [requestOfWord, hz, hr, hc]

/-- Settles O7: words by R91's verdict, rows because they begin at or above their region's default span. -/
theorem unclaimedOffsetsAreRefused : Obligations.UnclaimedOffsetsAreRefused := by
  refine ⟨fun w u s hz hr hc => ?_, fun s r off v hl => ⟨fun row hrow hoff => ?_, fun row hrow hoff => ?_⟩⟩
  · rw [exec_decode]
    exact performInput_of_error (by simp only [requestOf, requestOfWord_unclaimed hz hr hc, refusalOf])
  · obtain ⟨hq, -⟩ := undefinedReads_spec row (List.mem_append_right _ hrow) hoff
    have hspan := (span_le_unclaimedReads hl row hrow).trans (inRange_bounds hoff).1
    exact exec_unclaimed hq (claimsOffset_eq_false hspan)
  · obtain ⟨hq, -⟩ := undefinedWrites_spec (v := v) row (List.mem_append_right _ hrow) hoff
    have hspan := (span_le_unclaimedWrites hl row hrow).trans (inRange_bounds hoff).1
    exact exec_unclaimed hq (claimsOffset_eq_false hspan)

/-! ## Claimed offsets without a register -/

section

variable {off : Nat}

theorem portReg_eq_reserved {c : Config} (hp : c.pinctrlOffset = 0x10) (h : NamesNoRegister .port off) :
    c.portReg off = .reserved := by
  simp only [NamesNoRegister] at h
  unfold Config.portReg
  split
  case h_11 => exact if_neg (by rw [hp, show (0x10 : Byte).toNat = 16 from rfl]; omega)
  all_goals omega

theorem vportReg_eq_reserved (h : NamesNoRegister .vport off) : vportReg off = .reserved := by
  simp only [NamesNoRegister] at h
  unfold vportReg
  split
  case h_5 => rfl
  all_goals omega

theorem acReg_eq_reserved (h : NamesNoRegister .ac off) : acReg off = .reserved := by
  simp only [NamesNoRegister] at h
  unfold acReg
  split
  case h_5 => rfl
  all_goals omega

variable {s : State} {r : Region}

/-- R100, R158: the read handler of an offset without a register. -/
theorem readValue_undefined (hp : s.cfg.pinctrlOffset = 0x10) (h : NamesNoRegister r off) :
    s.readValue (regionOwner r) r off = 0 := by
  cases r with
  | port => simp only [State.readValue, regionOwner, portReg_eq_reserved hp h, State.portValue]
  | vport => simp only [State.readValue, regionOwner, vportReg_eq_reserved h, State.vportValue]
  | ac => simp only [State.readValue, regionOwner, acReg_eq_reserved h, State.acValue]

/-- R158: the write handler on an offset it does not recognize. -/
theorem writeHandler_undefined (hp : s.cfg.pinctrlOffset = 0x10) (h : NamesNoRegister r off) (v : Byte) :
    writeHandler topHandler (regionOwner r) r off v s = .next s := by
  cases r with
  | port => simp only [writeHandler, regionOwner, portReg_eq_reserved hp h, portWrite, writeReserved]
  | vport => simp only [writeHandler, regionOwner, vportReg_eq_reserved h, vportWrite, writeReserved]
  | ac => simp only [writeHandler, regionOwner, acReg_eq_reserved h, acWrite, writeAcReserved]

end

/-- Settles O19: such a row is the read or write of an offset that names no register (`undefinedReads_spec`,
`undefinedWrites_spec`), which the handlers do not recognize. -/
theorem claimedUndefinedOffsetsAreNoOps : Obligations.ClaimedUndefinedOffsetsAreNoOps := by
  refine fun s r off v ho hp hc => ⟨fun row hrow hoff => ?_, fun row hrow hoff => ?_⟩
  · obtain ⟨hq, hn⟩ := undefinedReads_spec row hrow hoff
    rw [exec_eq, hq]
    exact (transact_read ho hc).trans (by simp [readValue_undefined hp hn])
  · obtain ⟨hq, hn⟩ := undefinedWrites_spec (v := v) row hrow hoff
    rw [exec_eq, hq]
    exact (transact_write ho hc).trans (writeHandler_undefined hp hn v)

end Sys2Proof.Machine
end

section
/-! PROOFS. The events: PINSET (O31), the deliveries to the comparator (O46, O47), SLEEP and WAKE (O49, O50) and the
control requests (O51). -/

namespace Sys2Proof.Machine

open Sys2Proof

/-! ## PINSET -/

section

variable {s : State} {n : PinIx} {st : PinState}

/-- A Ready block performs PINSET (R108). -/
theorem exec_pinsetOf (hr : s.init = .ready) (st : PinState) (n : PinIx) :
    exec (pinsetOf st n) s = pinsetOp topHandler n st s := by
  have hq : requestOfInstr (pinsetOf st n) = some (.pinset n st) := by cases st <;> rfl
  rw [exec_eq, hq]
  exact transact_ready (q := .pinset n st) hr nofun rfl

/-- An absent pin has no state (R34). -/
theorem State.Inv.hasPin_of_pin (h : s.Inv) (hp : s.pin n = some st) : s.cfg.hasPin n = true := by
  by_contra hn
  rw [h.absentPins n (Bool.eq_false_iff.2 hn)] at hp
  cases hp

/-- R124: a drive to the pin's own state. -/
theorem drive_same (h : Handler) (hp : s.pin n = some st) : drive h n st s = .next s := if_pos hp

end

/-- Settles O31: PINSET of an existing pin is a drive, which in a silent environment leaves what `drive_drivenTo` says. -/
theorem pinsetDrivesThePin : Obligations.PinsetDrivesThePin := by
  intro s n st ho
  rw [exec_pinsetOf ho.ready]
  refine ⟨fun hn hs => ?_, fun hn => if_neg (Bool.eq_false_iff.1 hn), fun hp => ?_⟩
  · have hreg := ho.inv.registered (.inr ho.ready)
    obtain ⟨t, ht, hd⟩ := drive_drivenTo topHandler n st (hreg.pinHook hn) hs ho.inv.delivering
      (ho.inv.port ho.ready).portReq
    exact ⟨t, (if_pos hn).trans ht, hd⟩
  · exact (if_pos (ho.inv.hasPin_of_pin hp)).trans (drive_same _ hp)

/-! ## Evaluations -/

section

variable {s : State} {h : Handler}

theorem acActive_of_disabled (he : s.acEnable = false) : s.acActive = false := by
  simp [State.acActive, he]

theorem acActive_of (he : s.acEnable = true) (hs : s.ac.suspended = false) : s.acActive = true := by
  simp [State.acActive, he, hs]

/-- A delivery evaluates only where a multiplexer selects its channel (`p`) and the comparator is active (R253, R254,
R255). -/
theorem evaluateIf_idle {p : Bool} (hn : p = false ∨ s.acActive = false) :
    (if p then acEval h s else .next s) = .next s := by
  rcases hn with hn | hn
  · rw [hn]; rfl
  · rw [acEval_inactive hn, ite_self]

end

/-- In an operating block a change of what the comparator reads or of its suspension lets it evaluate in a silent
environment (R255): the request line is as R262 wants it, and no bus is delivering. -/
theorem State.Operating.evaluates {s c : State} {vp vn : Volt} (ho : s.Operating) (hs : s.Silent) (henv : c.env = s.env)
    (hdel : c.delivering = s.delivering) (hreq : c.acReq = s.acReq) (hwanted : c.acReqWanted = s.acReqWanted)
    (ha : c.acActive = true) (hp : c.acInput .pos = some vp) (hn : c.acInput .neg = some vn) :
    ∃ t, acEval topHandler c = .next t ∧ Evaluated c vp vn t :=
  acEval_silent topHandler (henv.trans hs) (by rw [hdel, ho.inv.delivering]; exact List.not_mem_nil) ha hp hn
    (by rw [hreq, hwanted]; exact (ho.inv.ac ho.ready).acReq)

/-! ## Deliveries -/

theorem exec_achan {s : State} (hr : s.init = .ready) (k : SourceId) (u : Volt) :
    exec (.achan k u) s = achanOp topHandler k u s :=
  transact_ready (q := .achan k u) hr nofun rfl

theorem exec_aref {s : State} (hr : s.init = .ready) (u : Volt) : exec (.aref u) s = arefOp topHandler u s :=
  transact_ready (q := .aref u) hr nofun rfl

/-- Settles O46: the stored value by the laws of the map, the evaluation by `evaluateIf_idle` and
`State.Operating.evaluates`. -/
theorem achanStoresAndEvaluates : Obligations.AchanStoresAndEvaluates := by
  intro s k u ho c
  have stored := fun j => s.setChan_chanValue k j u ho.inv.chan
  rw [exec_achan ho.ready]
  refine ⟨(stored k).trans (if_pos rfl), fun j hj => (stored j).trans (if_neg hj), evaluateIf_idle (s := c),
    fun hsel ha hs vp vn hp hn => ?_⟩
  obtain ⟨t, ht, he⟩ := ho.evaluates (c := c) hs rfl rfl rfl rfl ha hp hn
  exact ⟨t, (if_pos hsel).trans ht, he⟩

/-- Settles O47, as O46 with the reference for the source. -/
theorem arefStoresAndEvaluates : Obligations.ArefStoresAndEvaluates := by
  intro s u ho c
  rw [exec_aref ho.ready]
  refine ⟨evaluateIf_idle (s := c), fun hsel ha hs vp vn hp hn => ?_⟩
  obtain ⟨t, ht, he⟩ := ho.evaluates (c := c) hs rfl rfl rfl rfl ha hp hn
  exact ⟨t, (if_pos hsel).trans ht, he⟩

/-! ## SLEEP and WAKE -/

section

variable {s : State}

/-- R260: an evaluation follows only where a suspension ends and the comparator is enabled. -/
theorem recomputeSuspended_idle {h : Handler}
    (hi : s.ac.suspended = false ∨ s.suspendedNow = true ∨ s.acEnable = false) :
    recomputeSuspended h s = .next (s.setSuspended s.suspendedNow) := by
  unfold recomputeSuspended
  dsimp only
  split
  · rename_i hc
    simp only [State.setSuspended_ac_suspended, Bool.and_eq_true, Bool.not_eq_true'] at hc
    obtain ⟨hs, hn⟩ := hc
    refine acEval_inactive (acActive_of_disabled ?_)
    simpa [hs, hn] using hi
  · rfl

theorem recomputeSuspended_resume {h : Handler} (hs : s.ac.suspended = true) (hn : s.suspendedNow = false) :
    recomputeSuspended h s = acEval h (s.setSuspended false) := by
  simp [recomputeSuspended, hs, hn]

/-- SLEEP with a mode of the device (R111). -/
theorem exec_sleep {m : SleepMode} (hr : s.init = .ready) (hm : m ∈ s.cfg.sleepModes) :
    exec (.sleep m) s = recomputeSuspended topHandler { s with sleep := some m } :=
  (transact_ready (q := .sleep m) hr nofun rfl).trans (if_pos hm)

theorem exec_wake (hr : s.init = .ready) : exec .wake s = wakeOp topHandler s :=
  transact_ready (q := .wake) hr nofun rfl

/-- Setting `ac.suspended` to what it is. -/
theorem setSuspended_self {b : Bool} (h : s.ac.suspended = b) : s.setSuspended b = s := by subst h; rfl

/-- R261: WAKE ends a suspension, and only then evaluates. -/
theorem wakeOp_suspended {h : Handler} (hs : s.ac.suspended = true) :
    wakeOp h s = acEval h (State.setSuspended { s with sleep := none } false) := if_pos hs

theorem wakeOp_running {h : Handler} (hs : s.ac.suspended = false) : wakeOp h s = .next { s with sleep := none } :=
  if_neg (Bool.eq_false_iff.1 hs)

theorem wakeOp_idle {h : Handler} (hi : s.ac.suspended = false ∨ s.acEnable = false) :
    wakeOp h s = .next (State.setSuspended { s with sleep := none } false) := by
  cases hs : s.ac.suspended with
  | false => rw [wakeOp_running hs, setSuspended_self (s := { s with sleep := none }) hs]
  | true =>
    rw [wakeOp_suspended hs]
    exact acEval_inactive (acActive_of_disabled (hi.resolve_left (by simp [hs])))

end

/-- Settles O49: `recomputeSuspended()` in the state asleep, whose suspension is the one R43 derives from the mode. -/
theorem sleepSuspendsOrResumes : Obligations.SleepSuspendsOrResumes := by
  intro s m ho hm b c
  rw [exec_sleep ho.ready hm]
  refine ⟨recomputeSuspended_idle (s := { s with sleep := some m }), fun hsus hb he hs vp vn hp hn => ?_⟩
  rw [recomputeSuspended_resume (s := { s with sleep := some m }) hsus hb]
  have hc : State.setSuspended { s with sleep := some m } false = c := by rw [← hb]; rfl
  rw [hc]
  exact ho.evaluates hs rfl rfl rfl rfl (acActive_of he hb) hp hn

/-- Settles O50: awake no comparator is suspended (R43), so WAKE then changes nothing. -/
theorem wakeResumesAndEvaluates : Obligations.WakeResumesAndEvaluates := by
  intro s ho c
  rw [exec_wake ho.ready]
  refine ⟨wakeOp_idle, fun hawake => ?_, fun hsus he hs vp vn hp hn => ?_⟩
  · have hsus : s.ac.suspended = false := by
      rw [(ho.inv.ac ho.ready).suspended, State.suspendedNow, hawake]
    rw [wakeOp_running hsus, ← hawake]
  · rw [wakeOp_suspended hsus]
    exact ho.evaluates (c := c) hs rfl rfl rfl rfl (acActive_of he rfl) hp hn

/-! ## Control requests -/

section

variable {s : State}

theorem exec_getAcRef (hr : s.init = .ready) : exec .getAcRef s = getAcRefOp s :=
  transact_ready (q := .getAcRef) hr nofun rfl

theorem getAcRefOp_some {u : Volt} (h : s.ac.ref = some u) : getAcRefOp s = .next (s.emit (.readVolt u)) := by
  simp only [getAcRefOp, h]

theorem getAcRefOp_none (h : s.ac.ref = none) : getAcRefOp s = .fault (.acInputUndefined .ref s) := by
  simp only [getAcRefOp, h]

end

/-- Settles O51: each request is its operation, which emits its one reply. -/
theorem controlRequestsReply : Obligations.ControlRequestsReply := by
  intro s hr
  rw [exec_getAcRef hr]
  exact ⟨transact_ready (q := .getAcOut) hr nofun rfl, fun _ => getAcRefOp_some, getAcRefOp_none,
    transact_ready (q := .getPortSignal) hr nofun rfl⟩

end Sys2Proof.Machine
end

section
/-! PROOFS. No run hangs while the hooks outside the block return (O39). A hook is called while its bus delivers and a raise
on a delivering bus faults (R135), so that the delivering buses are distinct and the nesting of hooks is no deeper than the
number of buses. -/

namespace Sys2Proof.Machine

open Sys2Proof

/-- The transaction ends, in a next state, a fault of R320 or a refusal (R137, R322). -/
def Ends (r : Res) : Prop := r ≠ .fault .hang

theorem ends_next (s : State) : Ends (.next s) := nofun

theorem ends_refused (q : Refusal) : Ends (.refused q) := nofun

theorem ends_ite {p : Prop} [Decidable p] {r r' : Res} (h : p → Ends r) (h' : ¬ p → Ends r') :
    Ends (if p then r else r') := by
  split
  · exact h ‹_›
  · exact h' ‹_›

theorem ends_andThen {r : Res} {k : State → Res} (hr : Ends r) (hk : ∀ u, r = .next u → Ends (k u)) :
    Ends (andThen r k) := fun e =>
  (andThen_eq_fault.1 e).elim hr fun ⟨u, hu, e⟩ => hk u hu e

/-! ## The buses that deliver -/

/-- The ten buses the block publishes on (R36). -/
def allBuses : List BusId := pinOrder.map .pin ++ [.portValue, .acOut]

theorem mem_allBuses (b : BusId) : b ∈ allBuses := by
  cases b with
  | pin i => exact List.mem_append_left _ (List.mem_map_of_mem (mem_pinOrder i))
  | portValue => decide
  | acOut => decide

theorem length_le_nestDepth {d : List BusId} (h : d.Nodup) : d.length ≤ nestDepth :=
  (List.subperm_of_subset h fun b _ => mem_allBuses b).length_le

/-- The distinct buses `d` deliver, and every hook outside the block returns from each of its calls to come. -/
def HooksReturn (d : List BusId) (s : State) : Prop :=
  s.delivering = d ∧ d.Nodup ∧ ∀ r ∈ s.env, Action.spin ∉ r

section

variable {s t : State} {d : List BusId}

theorem HooksReturn.congr (p : HooksReturn d s) (hd : t.delivering = s.delivering) (he : t.env = s.env) :
    HooksReturn d t := by
  unfold HooksReturn; rw [hd, he]; exact p

theorem HooksReturn.onlyAc (p : HooksReturn d s) (h : OnlyAcDiffers s t) : HooksReturn d t :=
  p.congr (by rw [h.rest]) (by rw [h.rest])

theorem HooksReturn.onlyFlags (p : HooksReturn d s) (h : OnlyFlagsDiffer s t) : HooksReturn d t :=
  p.congr (by rw [h]) (by rw [h])

theorem HooksReturn.push {b : BusId} (p : HooksReturn d s) (hb : b ∉ s.delivering) :
    HooksReturn (b :: d) { s with delivering := b :: s.delivering } := by
  obtain ⟨rfl, hn, he⟩ := p
  exact ⟨rfl, List.nodup_cons.2 ⟨hb, hn⟩, he⟩

theorem HooksReturn.pop {b : BusId} (p : HooksReturn (b :: d) s) :
    HooksReturn d { s with delivering := s.delivering.erase b } := by
  obtain ⟨hd, hn, he⟩ := p
  exact ⟨by rw [hd, List.erase_cons_head], (List.nodup_cons.1 hn).2, he⟩

theorem HooksReturn.popEnv {r : Reaction} {rest : List Reaction} (p : HooksReturn d s) (h : s.env = r :: rest) :
    HooksReturn d { s with env := rest } := by
  obtain ⟨hd, hn, he⟩ := p
  exact ⟨hd, hn, fun r' hr => he r' (by rw [h]; exact .tail r hr)⟩

theorem HooksReturn.next_returns {r : Reaction} {rest : List Reaction} (p : HooksReturn d s) (h : s.env = r :: rest) :
    Action.spin ∉ r := by
  obtain ⟨-, -, he⟩ := p
  exact he r (by rw [h]; exact .head rest)

theorem HooksReturn.length_le (p : HooksReturn d s) : d.length ≤ nestDepth := by
  obtain ⟨-, hn, -⟩ := p
  exact length_le_nestDepth hn

theorem HooksReturn.setSubscribers (p : HooksReturn d s) (b : BusId) (l : List Subscriber) :
    HooksReturn d (s.setSubscribers b l) := p.congr (by simp) (by simp)

end

/-- Only a raise touches `delivering`, and only the call of a hook outside the block touches `env`. -/
theorem closed_hooksReturn : Closed HooksReturn fun _ => True where
  emit _ _ _ p := p
  popEnv _ _ _ _ p he := p.popEnv he
  push _ _ _ p hb := p.push hb
  pop _ _ _ _ _ p _ := p.pop
  tag _ _ _ _ _ _ _ := trivial
  setPin _ _ _ _ p _ := p
  setIn _ _ _ _ p _ := p
  flagPin _ s i c p _ := p.onlyFlags (onlyFlagsDiffer_flagPin s i c)
  dir _ _ _ p _ := p
  out _ _ _ p _ := p
  intflags _ _ _ _ p e := p.onlyFlags (onlyFlagsDiffer_writeIntflags e)
  pinctrl _ s n v p _ := HooksReturn.onlyFlags (s := s.setPinctrl n v) p (onlyFlagsDiffer_levelCheck _ n)
  ctrla _ _ _ p := p
  muxctrla _ _ _ p := p
  intctrl _ s v p := HooksReturn.onlyAc (s := s.setIntctrl (v &&& intctrlMask)) p (onlyAcDiffers_updateAcReq _)
  status _ s v p := by
    refine HooksReturn.onlyAc ?_ (onlyAcDiffers_updateAcReq _)
    split <;> exact p
  raw _ _ _ p _ := p
  acOut _ _ _ p _ := p
  flagAc _ s p := HooksReturn.onlyAc (s := s.setCmp true) p (onlyAcDiffers_updateAcReq _)
  sleep _ _ _ p _ := p
  wake _ _ p := p
  chan _ s k u p := p.onlyAc (onlyAcDiffers_setChan s k u)
  ref _ _ _ p := p
  subscribe _ _ b _ p _ _ := p.setSubscribers b _
  unsubscribe _ _ b _ p _ := p.setSubscribers b _

theorem kept_resetOp_hooksReturn {h : Handler} (hh : Handler.Keeps HooksReturn h) (d : List BusId) (s : State) :
    Kept HooksReturn d s (resetOp h s) :=
  closed_hooksReturn.reset hh (fun _ _ p => p) (fun _ _ p => p)
    (fun _ s p => p.onlyAc (onlyAcDiffers_updateAcReq s)) (fun _ _ p => p) d s

theorem handlerAt_keeps_hooksReturn (n : Nat) : Handler.Keeps HooksReturn (handlerAt n) :=
  closed_hooksReturn.handlerAt (fun _ => kept_resetOp_hooksReturn) n

/-! ## Operations that call no hook -/

/-- An evaluation without its inputs ends in a fault of R242. -/
theorem inputValue_ends {m : Mux} {s : State} {k : Volt → Res} (hk : ∀ u, Ends (k u)) : Ends (inputValue m s k) := by
  unfold inputValue
  split
  · nofun
  · split
    · nofun
    · exact hk _
  · split
    · nofun
    · exact hk _

theorem busRead_ends (r : Region) (off : Nat) (s : State) : Ends (busRead r off s) := by
  unfold busRead
  split
  · exact ends_refused _
  · exact ends_next _

theorem initOp_ends (s : State) : Ends (initOp s) := ends_ite (fun _ => ends_next _) fun _ => ends_next _

theorem getAcRefOp_ends (s : State) : Ends (getAcRefOp s) := by
  unfold getAcRefOp
  split
  · nofun
  · exact ends_next _

/-! ## Operations whose hooks act through `h` -/

/-- With `n` levels of nesting left, an action that is not `spin` ends wherever so many buses deliver that `n` levels are
enough. -/
structure Handler.Ends (h : Handler) (n : Nat) : Prop where
  keeps : Handler.Keeps HooksReturn h
  ends : ∀ a d s, a ≠ .spin → s.Live → HooksReturn d s → nestDepth < d.length + n → Machine.Ends (h a s)

section

variable {h : Handler} {n : Nat} {d : List BusId} {s : State}

theorem runActions_ends (hh : h.Ends n) {l : List Action} (hl : Action.spin ∉ l) (lv : s.Live) (p : HooksReturn d s)
    (hn : nestDepth < d.length + n) : Ends (runActions h l s) := by
  induction l generalizing s with
  | nil => exact ends_next s
  | cons a l ih =>
    obtain ⟨ha, hl⟩ := not_or.1 (List.mem_cons.not.1 hl)
    refine ends_andThen (hh.ends a d s (Ne.symm ha) lv p hn) fun u hu => ?_
    obtain ⟨lu, pu⟩ := hh.keeps a d s u lv p hu
    exact ih hl lu pu

theorem callOutside_ends (hh : h.Ends n) (bus : BusId) (id : SignalId) (pl : Payload) (tag : Int) (lv : s.Live)
    (p : HooksReturn d s) (hn : nestDepth < d.length + n) : Ends (callOutside h bus id pl tag s) := by
  unfold callOutside
  simp only [State.emit_env]
  split
  · exact ends_next _
  · rename_i r rest he
    have p' : HooksReturn d (s.emit (.signal bus id pl tag)) := p
    exact runActions_ends hh (p.next_returns he) (by exact lv) (p'.popEnv he) hn

/-- A delivery whose calls end and keep what the next one needs. -/
theorem deliver_ends {call : Subscriber → State → Res} {bus : BusId} {snap l : List Subscriber}
    (hk : ∀ x u, Kept HooksReturn d u (call x u)) (hc : ∀ x u, u.Live → HooksReturn d u → Ends (call x u))
    (lv : s.Live) (p : HooksReturn d s) : Ends (deliver call bus snap l s) := by
  induction l generalizing s with
  | nil => exact ends_next s
  | cons x l ih =>
    refine ends_andThen (hc x s lv p) fun u hu => ends_ite (fun _ => ?_) nofun
    obtain ⟨lu, pu⟩ := hk x s lv p u hu
    exact ih lu pu

theorem signalRaise_ends {call : Subscriber → State → Res} {bus : BusId}
    (hk : ∀ x u, Kept HooksReturn (bus :: d) u (call x u))
    (hc : ∀ x u, u.Live → HooksReturn (bus :: d) u → Ends (call x u)) (lv : s.Live) (p : HooksReturn d s) :
    Ends (signalRaise call bus s) :=
  ends_ite nofun fun hb => ends_andThen (deliver_ends hk hc (by exact lv) (p.push hb)) fun _ _ => ends_next _

section

variable (hh : h.Ends n) (lv : s.Live) (p : HooksReturn d s) (hn : nestDepth ≤ d.length + n)

include hh lv p hn

theorem raiseOutside_ends (bus : BusId) (id : SignalId) (pl : Payload) : Ends (raiseOutside h bus id pl s) := by
  refine signalRaise_ends (fun x u => ?_) (fun x u lu pu => ?_) lv p
  · cases x with
    | port k => exact kept_self _ _ u
    | ext k tag => exact closed_hooksReturn.callOutside hh.keeps bus id pl tag _ u
  · cases x with
    | port k => exact ends_next u
    | ext k tag => exact callOutside_ends hh bus id pl tag lu pu (by simp only [List.length_cons]; omega)

/-! ## Drives -/

theorem portHook_ends (st : PinState) (i : PinIx) : Ends (portHook h st i s) :=
  ends_ite (fun _ => ends_next _) fun _ => ends_ite (fun _ => ends_next _) fun _ =>
    ends_andThen (ends_ite (fun _ => raiseOutside_ends hh (by exact lv) (by exact p) hn _ _ _) fun _ => ends_next _)
      fun _ _ => ends_next _

theorem drive_ends (i : PinIx) (st : PinState) : Ends (drive h i st s) := by
  have hn' : nestDepth < (BusId.pin i :: d).length + n := by simp only [List.length_cons]; omega
  refine ends_ite (fun _ => ends_next s) fun _ =>
    signalRaise_ends (fun x u => ?_) (fun x u lu pu => ?_) (by exact lv) (by exact p)
  · cases x with
    | port k => exact closed_hooksReturn.portHook hh.keeps st k trivial _ u
    | ext k tag => exact closed_hooksReturn.callOutside hh.keeps _ _ _ tag _ u
  · cases x with
    | port k => exact portHook_ends hh lu pu hn'.le st k
    | ext k tag => exact callOutside_ends hh _ _ _ tag lu pu hn'

theorem redriveList_ends (l : List PinIx) : Ends (redriveList h l s) := by
  induction l generalizing s with
  | nil => exact ends_next s
  | cons i l ih =>
    refine ends_andThen (ends_ite (fun _ => drive_ends hh lv p hn i _) fun _ => ends_next s) fun u hu => ?_
    split at hu
    · obtain ⟨lu, pu⟩ := closed_hooksReturn.drive hh.keeps i _ d s ‹_› lv p u hu
      exact ih lu pu
    · injection hu with hu
      subst hu
      exact ih lv p

theorem redriveAll_ends : Ends (redriveAll h s) :=
  ends_ite (fun _ => redriveList_ends hh lv p hn pinOrder) fun _ => ends_next s

theorem writePinctrl_ends (k : PinIx) (v : Byte) : Ends (writePinctrl h k v s) :=
  ends_ite (fun hk => ends_ite
      (fun _ => drive_ends hh (live_levelCheck (s.setPinctrl k v) k lv) (closed_hooksReturn.pinctrl d s k v p hk) hn k _)
      fun _ => ends_next _)
    fun _ => ends_next s

theorem portWrite_ends (reg : PortReg) (v : Byte) : Ends (portWrite h reg v s) := by
  rcases portWrite_cases h reg v s with ⟨w, -, e⟩ | ⟨w, -, e⟩ | ⟨-, e⟩ | ⟨k, e⟩ | e <;> rw [e]
  · exact redriveAll_ends hh (by exact lv) (by exact p) hn
  · exact redriveAll_ends hh (by exact lv) (by exact p) hn
  · exact ends_next _
  · exact writePinctrl_ends hh lv p hn k v
  · exact ends_next s

/-! ## The comparator -/

theorem publishOutput_ends (new : Bool) : Ends (publishOutput h new s) :=
  ends_ite (fun _ => ends_next s) fun _ =>
    ends_andThen (raiseOutside_ends hh (by exact lv) (by exact p) hn _ _ _) fun _ _ => ends_next _

theorem acEval_ends : Ends (acEval h s) :=
  ends_ite
    (fun _ => inputValue_ends fun _ => inputValue_ends fun _ =>
      publishOutput_ends hh (by exact lv) (by exact p) hn _)
    fun _ => ends_next s

theorem recomputeSuspended_ends : Ends (recomputeSuspended h s) :=
  ends_ite (fun _ => acEval_ends hh (by exact lv) (by exact p) hn) fun _ => ends_next _

theorem acWrite_ends (reg : AcReg) (v : Byte) : Ends (acWrite h reg v s) := by
  cases reg with
  | ctrla =>
    refine ends_andThen (recomputeSuspended_ends hh (by exact lv) (by exact p) hn) fun u hu => ?_
    obtain ⟨lu, pu⟩ := closed_hooksReturn.recompute hh.keeps (by exact lv) (closed_hooksReturn.ctrla d s v p) hu
    exact acEval_ends hh lu pu hn
  | muxctrla => exact acEval_ends hh (by exact lv) (by exact p) hn
  | intctrl => exact ends_next _
  | status => exact ends_next _
  | reserved => exact ends_next s

theorem acReset_ends : Ends (acReset h s) :=
  ends_andThen (ends_ite (fun _ => raiseOutside_ends hh (by exact lv) (by exact p) hn _ _ _) fun _ => ends_next _)
    fun _ _ => ends_next _

/-! ## Transactions -/

theorem writeHandler_ends (o : Peripheral) (r : Region) (off : Nat) (v : Byte) : Ends (writeHandler h o r off v s) := by
  unfold writeHandler
  split
  · exact portWrite_ends hh lv p hn _ v
  · rw [vportWrite_eq]; exact portWrite_ends hh lv p hn _ v
  · exact acWrite_ends hh lv p hn _ v
  · exact ends_next s

theorem busWrite_ends (r : Region) (off : Nat) (v : Byte) : Ends (busWrite h r off v s) := by
  unfold busWrite
  split
  · exact ends_refused _
  · exact writeHandler_ends hh lv p hn _ r off v

theorem resetOp_ends : Ends (resetOp h s) := by
  refine ends_andThen (redriveList_ends hh (by exact lv) (by exact p) hn pinOrder) fun u hu => ?_
  obtain ⟨lu, pu⟩ := closed_hooksReturn.redriveList hh.keeps pinOrder d _ (by exact lv) (by exact p) u hu
  exact ends_andThen (acReset_ends hh lu pu hn) fun _ _ => ends_next _

theorem performAdmitted_ends (q : Request) : Ends (performAdmitted h q s) := by
  cases q with
  | read r off => exact busRead_ends r off s
  | write r off v => exact busWrite_ends hh lv p hn r off v
  | pinset k st => exact ends_ite (fun _ => drive_ends hh lv p hn k st) fun _ => ends_refused _
  | reset => exact resetOp_ends hh lv p hn
  | init => exact initOp_ends s
  | sleep m =>
    exact ends_ite (fun _ => recomputeSuspended_ends hh (by exact lv) (by exact p) hn) fun _ => ends_refused _
  | wake => exact ends_ite (fun _ => acEval_ends hh (by exact lv) (by exact p) hn) fun _ => ends_next _
  | achan k u =>
    exact ends_ite (fun _ => acEval_ends hh (by exact lv) (closed_hooksReturn.chan d s k u p) hn) fun _ => ends_next _
  | aref u => exact ends_ite (fun _ => acEval_ends hh (by exact lv) (by exact p) hn) fun _ => ends_next _
  | getAcOut => exact ends_next _
  | getAcRef => exact getAcRefOp_ends s
  | getPortSignal => exact ends_next _

end

/-- Before INIT has succeeded no hook is called: INIT is performed or the transaction is refused (R344). -/
theorem transactWith_ends (hh : h.Ends n) (q : Request) (p : HooksReturn d s) (hn : nestDepth ≤ d.length + n) :
    Ends (transactWith h q s) := by
  refine ends_ite (fun _ => ?_) fun _ => ends_refused _
  split
  · exact ends_refused _
  · rename_i ha
    by_cases hq : q = .init
    · subst hq; exact initOp_ends s
    · exact performAdmitted_ends hh (live_of_admission hq ha) p hn q

theorem performInputWith_ends (hh : h.Ends n) (x : Input) (p : HooksReturn d s) (hn : nestDepth ≤ d.length + n) :
    Ends (performInputWith h x s) := by
  unfold performInputWith
  split
  · exact ends_refused _
  · exact transactWith_ends hh _ p hn

end

/-! ## Nesting -/

theorem act_ends {h : Handler} {n : Nat} (hh : h.Ends n) {a : Action} {d : List BusId} {s : State} (ha : a ≠ .spin)
    (p : HooksReturn d s) (hn : nestDepth ≤ d.length + n) : Ends (act h a s) := by
  cases a with
  | input x => exact performInputWith_ends hh x p hn
  | subscribe bus entry =>
    exact ends_ite (fun _ => ends_refused _) fun _ => ends_ite (fun _ => ends_refused _) fun _ => ends_next _
  | unsubscribe bus hook =>
    exact ends_ite (fun _ => ends_refused _) fun _ => ends_ite (fun _ => ends_next _) fun _ => ends_refused _
  | spin => exact absurd rfl ha

/-- The handler without a level left is never reached, since no more than `nestDepth` buses deliver at once. -/
theorem handlerAt_ends (n : Nat) : (handlerAt n).Ends n := by
  induction n with
  | zero =>
    refine ⟨handlerAt_keeps_hooksReturn 0, fun a d s _ _ p hn => ?_⟩
    have hd := p.length_le
    omega
  | succ n ih => exact ⟨handlerAt_keeps_hooksReturn (n + 1), fun a d s ha _ p hn => act_ends ih ha p (by omega)⟩

theorem transact_ends {q : Request} {s : State} (hd : s.delivering = []) (he : ∀ r ∈ s.env, Action.spin ∉ r) :
    Ends (transact q s) :=
  transactWith_ends (handlerAt_ends nestDepth) q (d := []) ⟨hd, List.nodup_nil, he⟩ (Nat.le_add_left ..)

/-- Settles O39: a hook is called with at most as many buses delivering as there are levels of nesting (`handlerAt_ends`,
an induction over the levels), so that only `spin` hangs. -/
theorem transactionsTerminate : Obligations.TransactionsTerminate := by
  intro i s hd he
  rw [exec_eq]
  split
  · exact transact_ends hd he
  · exact ends_refused _

end Sys2Proof.Machine
end

section
/-! PROOFS. A hook outside the block that acts while its pin's change is delivered: it drives the pin (O37), or it changes
the subscriber list (O38). -/

namespace Sys2Proof.Machine

open Sys2Proof

/-! ## The port's hook without an audience -/

section

variable {s : State} {bus : BusId}

theorem raiseOutside_unheard (h : Handler) (id : SignalId) (p : Payload) (hl : s.subscribers bus = [])
    (hd : bus ∉ s.delivering) : raiseOutside h bus id p s = .next s := by
  unfold raiseOutside signalRaise
  rw [if_neg hd, hl, deliver_nil, andThen_next, List.erase_cons_head]

/-- The port's hook where nobody subscribes to the value signal: whatever the environment, it leaves what `portHook_silent`
says. -/
theorem portHook_unheard (h : Handler) (st : PinState) (i : PinIx) (hl : s.subscribers .portValue = [])
    (hd : BusId.portValue ∉ s.delivering) :
    portHook h st i s = .next ((s.afterHook st i).emitAll (s.hookEvents s.port.inp i st)) := by
  have unheard : ∀ p, s.signals .portValue .portValue p = [] := fun p => by simp [State.signals, hl]
  have recorded : (if pinLevel st != bitAt s.port.inp i then
        raiseOutside h .portValue .portValue (.portByte (s.setIn (withBit s.port.inp i (pinLevel st))).port.inp)
          (s.setIn (withBit s.port.inp i (pinLevel st)))
      else .next s) = .next (s.setIn (withBit s.port.inp i (pinLevel st))) := by
    split
    · exact raiseOutside_unheard h _ _ (by exact hl) hd
    · rename_i hne
      have same : pinLevel st = bitAt s.port.inp i := by simpa using hne
      rw [withBit_self same.symm]
      rfl
  unfold portHook State.hookEvents
  by_cases hsh : st = .shorted
  · subst hsh
    simp [State.afterHook, State.hookFlag, State.emit_eq]
  · have hne : (st != .shorted) = true := by simpa using hsh
    rw [if_neg hsh, if_neg hsh, unheard, ite_self, List.nil_append]
    cases hin : s.inputsSense
    · simp [State.afterHook, State.hookFlag, hin]
    · simp only [Bool.true_eq_false, if_false]
      rw [recorded, andThen_next, flagPin_silent]
      simp only [State.afterHook, State.hookFlag, hne, hin, Bool.true_and, if_true]
      rfl

end

/-! ## A delivery in parts -/

theorem andThen_assoc (r : Res) (f g : State → Res) : andThen (andThen r f) g = andThen r fun s => andThen (f s) g := by
  cases r <;> rfl

theorem andThen_self (r : Res) : andThen r .next = r := by cases r <;> rfl

/-- What is left of the delivery of pin `n`'s change to `snap` when one of its hooks has returned: the bus's list is compared
with `snap` (R132), the hooks `rest` are called, and the bus is no longer delivering (R130). -/
def restOfDelivery (h : Handler) (n : PinIx) (st : PinState) (snap rest : List Subscriber) (s : State) : Res :=
  andThen (if s.subscribers (.pin n) = snap then deliver (callPinHook h n st) (.pin n) snap rest s
      else .fault (.subscriberListModified (.pin n) s))
    fun t => .next { t with delivering := t.delivering.erase (.pin n) }

section

variable {h : Handler} {n : PinIx} {st : PinState} {snap rest : List Subscriber} {x : Subscriber} {s : State}

theorem restOfDelivery_cons (hs : s.subscribers (.pin n) = snap) :
    restOfDelivery h n st snap (x :: rest) s = andThen (callPinHook h n st x s) (restOfDelivery h n st snap rest) := by
  unfold restOfDelivery
  rw [if_pos hs]
  exact andThen_assoc _ _ _

theorem restOfDelivery_modified (hs : s.subscribers (.pin n) ≠ snap) :
    restOfDelivery h n st snap rest s = .fault (.subscriberListModified (.pin n) s) := by
  unfold restOfDelivery
  rw [if_neg hs]
  rfl

/-- `s` where pin `n` was driven to `st` and its bus starts to deliver (R124, R130). -/
def State.delivers (s : State) (n : PinIx) (st : PinState) : State := { s.setPin n st with delivering := [.pin n] }

@[simp] theorem State.delivers_delivering : (s.delivers n st).delivering = [.pin n] := rfl

@[simp] theorem State.delivers_pin : (s.delivers n st).pin n = some st :=
  (s.setPin_pin n st n).trans (if_pos rfl)

/-- A drive to another state, its bus not delivering: the pin is set and its list called (R124, R130). -/
theorem drive_delivers (hp : s.pin n ≠ some st) (hd : s.delivering = []) :
    drive h n st s = restOfDelivery h n st (s.subscribers (.pin n)) (s.subscribers (.pin n))
      (s.delivers n st) := by
  have hb : BusId.pin n ∉ (s.setPin n st).delivering := by simp [hd]
  unfold drive signalRaise restOfDelivery
  rw [if_neg hp, if_neg hb, if_pos (by rfl), State.setPin_delivering, hd]
  rfl

/-- R124, R135: a drive to another state while the pin's bus delivers. -/
theorem drive_reentrant (hp : s.pin n ≠ some st) (hd : BusId.pin n ∈ s.delivering) :
    drive h n st s = .fault (.reentrantRaise (.pin n) (s.setPin n st)) := by
  unfold drive signalRaise
  rw [if_neg hp, if_pos (by exact hd)]

/-! ## The hook that acts -/

theorem callOutside_acts {a : Action} {bus : BusId} {id : SignalId} {p : Payload} {tag : Int} (he : s.env = [[a]]) :
    callOutside h bus id p tag s = h a { s.emit (.signal bus id p tag) with env := [] } := by
  unfold callOutside
  simp only [State.emit_env, he]
  exact andThen_self _

/-- The calls before the first hook outside the block, where that is at most the port's: the delivery stands before that
hook in a state `v`, in which the pin is in its new state and its bus delivers, and which but for `env` is the same whatever
hooks outside would do. -/
theorem drive_reaches_hook {hook : Nat} {tag : Int} (hp : s.pin n ≠ some st) (hd : s.delivering = [])
    (hv : s.subscribers .portValue = [])
    (hl : s.subscribers (.pin n) = .ext hook tag :: rest ∨ s.subscribers (.pin n) = .port n :: .ext hook tag :: rest) :
    ∃ v, OnlyPortDiffers { s with delivering := [.pin n] } v ∧ v.pin n = some st ∧
      ∀ env, drive h n st { s with env := env } =
        restOfDelivery h n st (s.subscribers (.pin n)) (.ext hook tag :: rest) { v with env := env } := by
  have start : ∀ env, drive h n st { s with env := env } = restOfDelivery h n st (s.subscribers (.pin n))
      (s.subscribers (.pin n)) { s.delivers n st with env := env } :=
    fun env => drive_delivers (s := { s with env := env }) hp hd
  rcases hl with hl | hl
  · refine ⟨s.delivers n st, rfl, s.delivers_pin, fun env => ?_⟩
    rw [start]
    exact congrArg (restOfDelivery h n st (s.subscribers (.pin n)) · _) hl
  · refine ⟨((s.delivers n st).afterHook st n).emitAll ((s.delivers n st).hookEvents s.port.inp n st), rfl,
      s.delivers_pin, fun env => ?_⟩
    have call := portHook_unheard (s := { s.delivers n st with env := env }) h st n hv (by simp)
    rw [start]
    refine (congrArg (restOfDelivery h n st (s.subscribers (.pin n)) · _) hl).trans ?_
    rw [restOfDelivery_cons (by rfl), callPinHook, call]
    rfl

/-- The first hook outside the block performs its action `a` in the state `u`; in a silent environment the delivery goes on
from `u` itself. -/
theorem drive_hook_acts {a : Action} {hook : Nat} {tag : Int} (hp : s.pin n ≠ some st) (hd : s.delivering = [])
    (hv : s.subscribers .portValue = [])
    (hl : s.subscribers (.pin n) = .ext hook tag :: rest ∨ s.subscribers (.pin n) = .port n :: .ext hook tag :: rest)
    (he : s.env = [[a]]) :
    ∃ u, OnlyPortDiffers { s with delivering := [.pin n], env := [] } u ∧ u.pin n = some st ∧
      drive h n st s = andThen (h a u) (restOfDelivery h n st (s.subscribers (.pin n)) rest) ∧
      drive h n st { s with env := [] } = restOfDelivery h n st (s.subscribers (.pin n)) rest u := by
  obtain ⟨v, ov, hvp, hdr⟩ := drive_reaches_hook (h := h) hp hd hv hl
  have hs : ∀ env, State.subscribers { v with env := env } (.pin n) = s.subscribers (.pin n) :=
    fun _ => ov.subscribers (.pin n)
  refine ⟨{ v.emit (.signal (.pin n) .digitalStateChanged (.pinState st) tag) with env := [] }, ?_, hvp, ?_, ?_⟩
  · rw [ov]; rfl
  · have acting := hdr s.env
    rwa [restOfDelivery_cons (hs _), callPinHook, callOutside_acts (by exact he)] at acting
  · rw [hdr, restOfDelivery_cons (hs _), callPinHook, callOutside_silent _ _ _ _ _ rfl]
    rfl

end

/-! ## A hook that drives its own pin -/

section

variable {s : State} {n : PinIx} {st : PinState}

theorem requestOfInstr_pinsetOf (st : PinState) (n : PinIx) : requestOfInstr (pinsetOf st n) = some (.pinset n st) := by
  cases st <;> rfl

theorem requestOf_encode_pinsetOf (c : Config) (st : PinState) (n : PinIx) :
    requestOf c (.word (encode (pinsetOf st n)) 0) = .ok (.pinset n st) := by
  have hop : operandOf (pinsetOf st n) = 0 := by cases st <;> rfl
  have hdec : decode (encode (pinsetOf st n)) 0 = pinsetOf st n :=
    hop ▸ decodeInvertsEncode (pinsetOf st n) (wellFormed_pinsetOf st n)
  simp only [requestOf, requestOfWord_eq_verdict, hdec, verdictOfInstr_some (requestOfInstr_pinsetOf st n)]
  rfl

/-- PINSET as the transaction of a hook (R80). -/
theorem topHandler_pinset (hr : s.init = .ready) (hn : s.cfg.hasPin n = true) :
    topHandler (.input (.word (encode (pinsetOf st n)) 0)) s = drive (handlerAt 9) n st s := by
  show performInputWith (handlerAt 9) _ s = _
  unfold performInputWith
  rw [requestOf_encode_pinsetOf]
  show transactWith (handlerAt 9) (.pinset n st) s = _
  unfold transactWith
  rw [hr]
  exact if_pos hn

end

/-- Settles O37: the hook drives while its bus delivers (`drive_hook_acts`), so that a drive to another state raises on that
bus and faults (`drive_reentrant`), and one to the pin's own state leaves the delivery to end as in a silent environment. -/
theorem reentrantDriveFaults : Obligations.ReentrantDriveFaults := by
  intro s n st st' hook tag ho hn hl hv hp he
  obtain ⟨u, ou, hu, hdrive, hsilent⟩ := drive_hook_acts (h := topHandler) hp ho.inv.delivering hv (.inr hl) he
  have hr : u.init = .ready := by rw [ou]; exact ho.ready
  have hnu : u.cfg.hasPin n = true := by rw [ou]; exact hn
  rw [exec_pinsetOf ho.ready, show pinsetOp topHandler n st s = _ from if_pos hn, hdrive, topHandler_pinset hr hnu]
  refine ⟨fun hne => ?_, fun heq => ?_⟩
  · rw [drive_reentrant (by rw [hu]; simpa using hne.symm) (by rw [ou]; simp)]
    exact ⟨_, rfl⟩
  · obtain ⟨t, ht, hdt⟩ := drive_drivenTo (s := { s with env := [] }) topHandler n st
      ((ho.inv.registered (.inr ho.ready)).pinHook hn) rfl ho.inv.delivering (ho.inv.port ho.ready).portReq
    rw [heq, drive_same _ hu, andThen_next, ← hsilent]
    exact ⟨t, ht, hdt.rest.env, hdt⟩

/-! ## A hook that changes the list -/

section

variable {s : State} {bus : BusId}

/-- A subscription on a delivering bus leaves another list (R128). -/
theorem subscribeOp_modifies {x : Subscriber} (hd : bus ∈ s.delivering)
    (hx : x.hookId ∉ (s.subscribers bus).map Subscriber.hookId) :
    ∃ t, subscribeOp bus x s = .next t ∧ t.subscribers bus ≠ s.subscribers bus := by
  unfold subscribeOp
  simp only [hd, hx, not_true_eq_false, if_false]
  exact ⟨_, rfl, by simp⟩

/-- Unsubscribing a hook of the list of a delivering bus leaves another list (R128). -/
theorem unsubscribeOp_modifies {k : HookId} (hd : bus ∈ s.delivering)
    (hk : k ∈ (s.subscribers bus).map Subscriber.hookId) :
    ∃ t, unsubscribeOp bus k s = .next t ∧ t.subscribers bus ≠ s.subscribers bus := by
  unfold unsubscribeOp
  simp only [hd, hk, not_true_eq_false, if_false, if_true]
  refine ⟨_, rfl, fun e => ?_⟩
  obtain ⟨x, hx, rfl⟩ := List.mem_map.1 hk
  rw [State.setSubscribers_subscribers, if_pos rfl, List.filter_eq_self] at e
  simpa using e x hx

end

/-- The first hook outside the block leaves another list on the bus that calls it (R132). -/
theorem drive_list_modified {h : Handler} {s : State} {n : PinIx} {st : PinState} {rest : List Subscriber} {a : Action}
    {hook : Nat} {tag : Int} (hp : s.pin n ≠ some st) (hd : s.delivering = []) (hv : s.subscribers .portValue = [])
    (hl : s.subscribers (.pin n) = .ext hook tag :: rest ∨ s.subscribers (.pin n) = .port n :: .ext hook tag :: rest)
    (he : s.env = [[a]])
    (ha : ∀ u, .pin n ∈ u.delivering → u.subscribers (.pin n) = s.subscribers (.pin n) →
      ∃ t, h a u = .next t ∧ t.subscribers (.pin n) ≠ u.subscribers (.pin n)) :
    ∃ kept, drive h n st s = .fault (.subscriberListModified (.pin n) kept) := by
  obtain ⟨u, ou, -, hdrive, -⟩ := drive_hook_acts (h := h) hp hd hv hl he
  have hs : u.subscribers (.pin n) = s.subscribers (.pin n) := ou.subscribers _
  obtain ⟨t, ht, hne⟩ := ha u (by rw [ou]; simp) hs
  rw [hdrive, ht, andThen_next, restOfDelivery_modified (hs ▸ hne)]
  exact ⟨t, rfl⟩

/-- Settles O38: either change is made on the delivering bus, and the comparison after the hook's call finds it
(`drive_list_modified`). -/
theorem listChangeDuringDeliveryFaults : Obligations.ListChangeDuringDeliveryFaults := by
  intro s n st hook tag rest ho hn hv hp hl
  rw [exec_pinsetOf ho.ready, show pinsetOp topHandler n st s = _ from if_pos hn]
  refine ⟨fun x hx he => ?_, fun k hk he => ?_⟩
  · exact drive_list_modified hp ho.inv.delivering hv hl he fun u hd hs => subscribeOp_modifies hd (hs ▸ hx)
  · exact drive_list_modified hp ho.inv.delivering hv hl he fun u hd hs => unsubscribeOp_modifies hd (hs ▸ hk)

end Sys2Proof.Machine
end

section
/-! PROOFS. The words of the PORT, VPORT and AC registers (O4), the reads of the PORT and the VPORT (O15, O16), VPORT
writes (O23) and the writes without effect (O26). -/

namespace Sys2Proof.Machine

open Sys2Proof

/-! ## Words -/

/-- O1 for a word written out: a word that is the encoding of an instruction without an operand decodes to it. -/
theorem decode_of_encode {i : Instr} {w : Tw20} (hwf : i.wellFormed = true) (hw : encode i = w)
    (hu : operandOf i = 0 := by rfl) : decode w 0 = i := by
  rw [← hw, ← hu, decodeInvertsEncode i hwf]

/-- Settles O4: each word is the encoding of its instruction. -/
theorem writtenOutWordsDecode : Obligations.WrittenOutWordsDecode := by
  refine ⟨?_, ?_, ?_, ?_, ?_, ?_, ?_, ?_, ?_, ?_, decodeInvertsEncode (.achan 0 (3 / 5)) rfl, ?_, ?_⟩ <;>
    exact decode_of_encode rfl rfl

theorem decode_pinctrlRead (n : PinIx) : decode (0x01000 + BitVec.ofNat 20 (n.val * 256)) 0 = pinctrlRead n := by
  revert n; decide

section

variable {off v : Byte}

/-- A reserved row of the PORT is a word of the region's reads at the row's offset (R96, R100). -/
theorem decode_reservedReads_port : ∀ row ∈ reservedReads .port, inRange row.1 row.2.1 off = true →
    decode (0#4 ++ off ++ 0#8) 0 = row.2.2 off := by
  simp only [reservedReads, List.forall_mem_cons, List.not_mem_nil, false_implies, implies_true, and_true]
  exact ⟨(decode_of_encode · rfl), (decode_of_encode · rfl), (decode_of_encode · rfl)⟩

theorem decode_reservedWrites_port : ∀ row ∈ reservedWrites .port, inRange row.1 row.2.1 off = true →
    decode (2#4 ++ off ++ v) 0 = row.2.2 off v := by
  simp only [reservedWrites, List.forall_mem_cons, List.not_mem_nil, false_implies, implies_true, and_true]
  exact ⟨(decode_of_encode · rfl), (decode_of_encode · rfl), (decode_of_encode · rfl)⟩

/-- A range of one offset. -/
theorem eq_of_inRange_self {k : Byte} (h : inRange k.toNat k.toNat off = true) : off = k := by
  have := inRange_bounds h
  exact BitVec.eq_of_toNat_eq (by omega)

theorem decode_reservedWrites_ac : ∀ row ∈ reservedWrites .ac, inRange row.1 row.2.1 off = true →
    decode (0xA#4 ++ off ++ v) 0 = row.2.2 off v := by
  simp only [reservedWrites, List.forall_mem_cons, List.not_mem_nil, false_implies, implies_true, and_true]
  refine ⟨fun h => ?_, fun h => ?_, (decode_of_encode · rfl)⟩
  · obtain rfl := eq_of_inRange_self (k := 0x01) h
    exact decode_of_encode rfl rfl
  · obtain rfl := eq_of_inRange_self (k := 0x03) h
    exact decode_of_encode rfl rfl

end

/-! ## The default layout -/

section

variable {c : Config} {off : Nat}

theorem claimsOffset_port (hl : c.defaultLayout = true) (h : off < 0x20) : c.claimsOffset .port off = true := by
  rw [(claimsOffset_of_defaultLayout hl off).1, decide_eq_true h]

theorem claimsOffset_ac (hl : c.defaultLayout = true) (h : off < 8) : c.claimsOffset .ac off = true := by
  rw [(claimsOffset_of_defaultLayout hl off).2.2, decide_eq_true h]

theorem claimsOffset_vport (hv : c.hasVport = true) (hs : c.vportSpan = 4) (h : off < 4) :
    c.claimsOffset .vport off = true := by
  simp [Config.claimsOffset, Config.present, Config.span, hv, hs, h]

theorem claimsOffset_vport_absent (hv : c.hasVport = false) : c.claimsOffset .vport off = false := by
  simp [Config.claimsOffset, Config.present, hv]

theorem pinctrlOffset_of_defaultLayout (hl : c.defaultLayout = true) : c.pinctrlOffset = 0x10 := by
  simp only [Config.defaultLayout, Bool.and_eq_true, beq_iff_eq] at hl
  obtain ⟨⟨⟨h, -⟩, -⟩, -⟩ := hl
  exact h

theorem vportSpan_of_defaultLayout (hl : c.defaultLayout = true) : c.vportSpan = 4 := by
  simp only [Config.defaultLayout, Bool.and_eq_true, beq_iff_eq] at hl
  obtain ⟨⟨-, h⟩, -⟩ := hl
  exact h

/-- In the default layout the reserved rows of a region are offsets it claims (R100). -/
theorem claimsOffset_reservedReads (hl : c.defaultLayout = true) {r : Region} {o : Byte} :
    ∀ row ∈ reservedReads r, inRange row.1 row.2.1 o = true → c.claimsOffset r o.toNat = true := by
  obtain ⟨hport, -, hac⟩ := claimsOffset_of_defaultLayout hl o.toNat
  cases r <;> simp [reservedReads, inRange_iff, hport, hac] <;> omega

theorem claimsOffset_reservedWrites (hl : c.defaultLayout = true) {r : Region} {o : Byte} :
    ∀ row ∈ reservedWrites r, inRange row.1 row.2.1 o = true → c.claimsOffset r o.toNat = true := by
  obtain ⟨hport, -, hac⟩ := claimsOffset_of_defaultLayout hl o.toNat
  cases r <;> simp [reservedWrites, inRange_iff, hport, hac] <;> omega

/-- R93: offset `0x10 + n` names PINnCTRL. -/
theorem portReg_pinctrl (hl : c.defaultLayout = true) (n : PinIx) : c.portReg (0x10 + n.val) = .pinctrl n := by
  have h16 : c.pinctrlOffset.toNat = 16 := by rw [pinctrlOffset_of_defaultLayout hl]; rfl
  unfold Config.portReg
  split
  case h_11 => rw [if_pos (by omega), h16, Nat.add_sub_cancel_left, Fin.ofNat_val_eq_self]
  all_goals omega

end

/-! ## Reads -/

theorem and_eq_self_of_within {v m : Byte} (h : v &&& ~~~m = 0) : v &&& m = v := bitAt_ext fun i => by
  have hi := (masked_iff v m).1 h i
  rw [bitAt_and]
  cases hv : bitAt v i
  · rfl
  · rw [hi hv]; rfl

section

variable {s : State} {i : Instr} {off : Nat} {b : Byte}

/-- A PORT read of an operating block gives the register's value under the mask of R155 (R152, R185). -/
theorem exec_portRead (ho : s.Operating) (hl : s.cfg.defaultLayout = true)
    (hq : requestOfInstr i = some (.read .port off)) (hoff : off < 0x20)
    (hb : s.portValue (s.cfg.portReg off) &&& s.cfg.maskAt .port off = b) :
    exec i s = .next (s.emit (.readData b)) := by
  rw [exec_eq, hq, ← hb]
  exact transact_read ho (claimsOffset_port hl hoff)

/-- A register that the invariant keeps within `PIN_MASK` (R30). -/
theorem exec_portRead_masked (ho : s.Operating) (hl : s.cfg.defaultLayout = true)
    (hq : requestOfInstr i = some (.read .port off)) (hoff : off < 0x20) (hb : s.portValue (s.cfg.portReg off) = b)
    (hm : s.cfg.maskAt .port off = s.cfg.pinMask) (hw : b &&& ~~~s.cfg.pinMask = 0) :
    exec i s = .next (s.emit (.readData b)) :=
  exec_portRead ho hl hq hoff (by rw [hb, hm, and_eq_self_of_within hw])

/-- An offset that reads 0 (R185). -/
theorem exec_portRead_zero (ho : s.Operating) (hl : s.cfg.defaultLayout = true)
    (hq : requestOfInstr i = some (.read .port off)) (hoff : off < 0x20) (hb : s.portValue (s.cfg.portReg off) = 0) :
    exec i s = .next (s.emit (.readData 0)) :=
  exec_portRead ho hl hq hoff (by rw [hb]; exact BitVec.zero_and)

/-- A VPORT read of an operating block gives the canonical register under its mask (R152, R200). -/
theorem exec_vportRead (ho : s.Operating) (hv : s.cfg.hasVport = true) (hs : s.cfg.vportSpan = 4)
    (hq : requestOfInstr i = some (.read .vport off)) (hoff : off < 4)
    (hb : s.vportValue (vportReg off) &&& s.cfg.maskAt .vport off = b) :
    exec i s = .next (s.emit (.readData b)) := by
  rw [exec_eq, hq, ← hb]
  exact transact_read ho (claimsOffset_vport hv hs hoff)

theorem requestOfInstr_pinctrlRead (n : PinIx) :
    requestOfInstr (pinctrlRead n) = some (.read .port (0x10 + n.val)) := by
  revert n; decide

/-- The read of PINnCTRL: all 8 bits, or 0 for an absent pin (R155, R185). -/
theorem exec_pinctrlRead (ho : s.Operating) (hl : s.cfg.defaultLayout = true) (n : PinIx) :
    exec (pinctrlRead n) s = .next (s.emit (.readData (if s.cfg.hasPin n then s.pinctrl n else 0))) := by
  refine exec_portRead ho hl (requestOfInstr_pinctrlRead n) (by omega) ?_
  simp only [Config.maskAt, portReg_pinctrl hl, State.portValue]
  split
  · exact BitVec.and_allOnes
  · exact BitVec.and_zero

end

/-- Settles O15: the words by O1; each read gives its register under the mask of R155, within which the invariant keeps the
registers (`and_eq_self_of_within`). -/
theorem portReadsReturnTheRegisters : Obligations.PortReadsReturnTheRegisters := by
  refine ⟨⟨?_, ?_, ?_, ?_, ?_, ?_, ?_, ?_, ?_, ?_, decode_pinctrlRead, fun row h off => decode_reservedReads_port row h⟩,
    fun s ho hl => ?_⟩
  iterate 10 exact decode_of_encode rfl rfl
  have hport := ho.inv.port ho.ready
  refine ⟨exec_portRead_masked ho hl rfl (by decide) rfl rfl hport.dir, ?_, ?_, ?_,
    exec_portRead_masked ho hl rfl (by decide) rfl rfl hport.out, ?_, ?_, ?_,
    exec_portRead_masked ho hl rfl (by decide) rfl rfl hport.inp,
    exec_portRead_masked ho hl rfl (by decide) rfl rfl hport.intflags, exec_pinctrlRead ho hl,
    fun row hrow off hoff => ?_⟩
  iterate 6 exact exec_portRead_zero ho hl rfl (by decide) rfl
  obtain ⟨reads, -⟩ := claimedUndefinedOffsetsAreNoOps s .port off 0 ho (pinctrlOffset_of_defaultLayout hl)
    (claimsOffset_reservedReads hl row hrow hoff)
  exact reads row (List.mem_append_left _ hrow) hoff

/-- Settles O16: the words by O1; each read gives the canonical register under `PIN_MASK`, within which the invariant keeps
it; without a VPORT the region claims no offset. -/
theorem vportReadsReturnTheCanonicalRegisters : Obligations.VportReadsReturnTheCanonicalRegisters := by
  refine ⟨⟨?_, ?_, ?_, ?_⟩, fun s => ⟨fun ho hv hs => ?_, fun hv => ?_⟩⟩
  iterate 4 exact decode_of_encode rfl rfl
  · have hport := ho.inv.port ho.ready
    exact ⟨exec_vportRead ho hv hs rfl (by decide) (and_eq_self_of_within hport.dir),
      exec_vportRead ho hv hs rfl (by decide) (and_eq_self_of_within hport.out),
      exec_vportRead ho hv hs rfl (by decide) (and_eq_self_of_within hport.inp),
      exec_vportRead ho hv hs rfl (by decide) (and_eq_self_of_within hport.intflags)⟩
  · have absent {i : Instr} {off : Nat} (hq : requestOfInstr i = some (.read .vport off)) :
        exec i s = .refused .unclaimed := exec_unclaimed hq (claimsOffset_vport_absent hv)
    exact ⟨absent rfl, absent rfl, absent rfl, absent rfl⟩

/-! ## Writes to the VPORT, and writes without effect -/

/-- A VPORT write of an operating block is the write of the register it mirrors (R157, R201 to R204). -/
theorem transact_write_vport {s : State} {off off' : Nat} {v : Byte} (ho : s.Operating) (hv : s.cfg.hasVport = true)
    (hl : s.cfg.defaultLayout = true) (hoff : off < 4) (hoff' : off' < 0x20)
    (hreg : s.cfg.portReg off' = mirroredReg (vportReg off)) :
    transact (.write .vport off v) s = transact (.write .port off' v) s := by
  calc transact (.write .vport off v) s
    _ = vportWrite topHandler (vportReg off) v s :=
      transact_write ho (claimsOffset_vport hv (vportSpan_of_defaultLayout hl) hoff)
    _ = portWrite topHandler (s.cfg.portReg off') v s := by rw [vportWrite_eq, hreg]
    _ = transact (.write .port off' v) s := (transact_write ho (claimsOffset_port hl hoff')).symm

/-- Settles O23 by `transact_write_vport`, register by register. -/
theorem vportWritesAreCanonicalWrites : Obligations.VportWritesAreCanonicalWrites := fun _ _ ho hv hl =>
  ⟨transact_write_vport (off := 0) (off' := 0x00) ho hv hl (by decide) (by decide) rfl,
    transact_write_vport (off := 1) (off' := 0x04) ho hv hl (by decide) (by decide) rfl,
    transact_write_vport (off := 2) (off' := 0x08) ho hv hl (by decide) (by decide) rfl,
    transact_write_vport (off := 3) (off' := 0x09) ho hv hl (by decide) (by decide) rfl⟩

theorem exec_wrPortIn {s : State} (ho : s.Operating) (hl : s.cfg.defaultLayout = true) (v : Byte) :
    exec (.wrPortIn v) s = .next s :=
  transact_write (off := 0x08) ho (claimsOffset_port hl (by decide))

/-- Settles O26: the words by O1; WR IN by its definition, VPORT.IN because it mirrors IN (O23), and the reserved rows are
claimed offsets without a register (O19). -/
theorem writesWithoutEffect : Obligations.WritesWithoutEffect := by
  refine ⟨fun v => ⟨decode_of_encode rfl rfl, decode_of_encode rfl rfl, fun row h off => decode_reservedWrites_port row h,
    fun row h off => decode_reservedWrites_ac row h⟩, fun s v ho hl => ⟨exec_wrPortIn ho hl v, fun hv => ?_, ?_⟩⟩
  · obtain ⟨-, -, hin, -⟩ := vportWritesAreCanonicalWrites s v ho hv hl
    exact hin.trans (exec_wrPortIn ho hl v)
  · intro r row hrow off hoff
    obtain ⟨-, writes⟩ := claimedUndefinedOffsetsAreNoOps s r off v ho (pinctrlOffset_of_defaultLayout hl)
      (claimsOffset_reservedWrites hl row hrow hoff)
    exact writes row (List.mem_append_left _ hrow) hoff

end Sys2Proof.Machine
end

section
/-! PROOFS. Writes to the PORT: the DIR and OUT families (O20, O21, O22), INTFLAGS (O27, O28) and PINnCTRL (O29, O30); and
the absent pins (O34). -/

namespace Sys2Proof.Machine

open Sys2Proof

/-! ## The DIR and OUT families -/

/-- Only DIR and OUT differ. -/
def OnlyDirOutDiffer (s u : State) : Prop :=
  u = { s with port := { s.port with dir := u.port.dir, out := u.port.out } }

theorem OnlyDirOutDiffer.setDir (s : State) (w : Byte) : OnlyDirOutDiffer s (s.setDir w) := rfl

theorem OnlyDirOutDiffer.setOut (s : State) (w : Byte) : OnlyDirOutDiffer s (s.setOut w) := rfl

section

variable {s u : State} {i j : Instr} {off : Nat} {v : Byte}

/-- A write of the DIR or the OUT family completes in an operating block with a silent environment, which stays operating,
and re-drives the pins (R191). -/
theorem exec_redrives (ho : s.Operating) (hs : s.Silent) (hl : s.cfg.defaultLayout = true)
    (hi : requestOfInstr i = some (.write .port off v)) (hoff : off < 0x20) (hu : OnlyDirOutDiffer s u)
    (hw : portWrite topHandler (s.cfg.portReg off) v s = redriveAll topHandler u) :
    ∃ t, exec i s = .next t ∧ t.Operating ∧ Redriven u t := by
  rw [exec_eq, hi]
  obtain ⟨t, e, hot, -, hd⟩ := transact_write_redrives ho hs (claimsOffset_port hl hoff) (by rw [hu]; rfl) (by rw [hu])
    (by rw [hu]) hw
  exact ⟨t, e, hot, hd⟩

theorem exec_redriven (ho : s.Operating) (hs : s.Silent) (hl : s.cfg.defaultLayout = true)
    (hi : requestOfInstr i = some (.write .port off v)) (hoff : off < 0x20) (hu : OnlyDirOutDiffer s u)
    (hw : portWrite topHandler (s.cfg.portReg off) v s = redriveAll topHandler u) :
    ∃ t, exec i s = .next t ∧ Redriven u t := by
  obtain ⟨t, e, -, hd⟩ := exec_redrives ho hs hl hi hoff hu hw
  exact ⟨t, e, hd⟩

/-- R186: after the write of a pseudo-register its read gives 0. -/
theorem exec_redriven_read_zero (ho : s.Operating) (hs : s.Silent) (hl : s.cfg.defaultLayout = true)
    (hi : requestOfInstr i = some (.write .port off v)) (hj : requestOfInstr j = some (.read .port off))
    (hoff : off < 0x20) (hu : OnlyDirOutDiffer s u)
    (hw : portWrite topHandler (s.cfg.portReg off) v s = redriveAll topHandler u)
    (hr : ∀ t : State, t.portValue (t.cfg.portReg off) = 0) :
    ∃ t, exec i s = .next t ∧ Redriven u t ∧ exec j t = .next (t.emit (.readData 0)) := by
  obtain ⟨t, e, hot, hd⟩ := exec_redrives ho hs hl hi hoff hu hw
  have hcfg : t.cfg = s.cfg := by rw [hd.rest.cfg, hu]
  exact ⟨t, e, hd, exec_portRead_zero hot (hcfg ▸ hl) hj hoff (hr t)⟩

end

/-- Settles O20: each write of the family re-drives from the state with its DIR, and the VPORT's is the PORT's (O23). -/
theorem dirWritesRedriveThePort : Obligations.DirWritesRedriveThePort := by
  intro s v ho hs hl
  have dir := exec_redriven (i := .wrPortDir v) ho hs hl rfl (by decide) (.setDir s _) rfl
  refine ⟨dir, ?_, ?_, ?_, fun hv => ?_⟩
  iterate 3 exact exec_redriven ho hs hl rfl (by decide) (.setDir s _) rfl
  obtain ⟨hdir, -⟩ := vportWritesAreCanonicalWrites s v ho hv hl
  rw [hdir]
  exact dir

/-- Settles O21: each write of the family re-drives from the state with its OUT, and the VPORT's is the PORT's (O23). -/
theorem outWritesRedriveThePort : Obligations.OutWritesRedriveThePort := by
  intro s v ho hs hl
  have out := exec_redriven (i := .wrPortOut v) ho hs hl rfl (by decide) (.setOut s _) rfl
  refine ⟨out, ?_, ?_, ?_, fun hv => ?_⟩
  iterate 3 exact exec_redriven ho hs hl rfl (by decide) (.setOut s _) rfl
  obtain ⟨-, hout, -⟩ := vportWritesAreCanonicalWrites s v ho hv hl
  rw [hout]
  exact out

/-- Settles O22: the write re-drives from the state with the rule's value, which a re-drive keeps, and the offset reads 0
(`exec_redriven_read_zero`). -/
theorem pseudoRegisterLaws : Obligations.PseudoRegisterLaws := by
  intro s v ho hs hl m
  have dirLaw {i j : Instr} {w : Byte} : (∃ t, exec i s = .next t ∧ Redriven (s.setDir w) t ∧
      exec j t = .next (t.emit (.readData 0))) →
      ∃ t, exec i s = .next t ∧ t.port.dir = w ∧ exec j t = .next (t.emit (.readData 0)) :=
    fun ⟨t, e, hd, hread⟩ => ⟨t, e, hd.dir, hread⟩
  have outLaw {i j : Instr} {w : Byte} : (∃ t, exec i s = .next t ∧ Redriven (s.setOut w) t ∧
      exec j t = .next (t.emit (.readData 0))) →
      ∃ t, exec i s = .next t ∧ t.port.out = w ∧ exec j t = .next (t.emit (.readData 0)) :=
    fun ⟨t, e, hd, hread⟩ => ⟨t, e, hd.out, hread⟩
  refine ⟨dirLaw ?_, dirLaw ?_, dirLaw ?_, outLaw ?_, outLaw ?_, outLaw ?_⟩
  iterate 3 exact exec_redriven_read_zero ho hs hl rfl rfl (by decide) (.setDir s _) rfl fun _ => rfl
  iterate 3 exact exec_redriven_read_zero ho hs hl rfl rfl (by decide) (.setOut s _) rfl fun _ => rfl

/-! ## The level check -/

/-- The condition of the level check of pin `n`: sense mode LEVEL at level 0 (R183). -/
abbrev State.LevelFires (s : State) (n : PinIx) : Prop := s.isc n = .level ∧ bitAt s.port.inp n = false

/-- INTFLAGS after the level check of pin `n` (R183). -/
def State.levelFlags (s : State) (n : PinIx) : Byte :=
  if s.LevelFires n then withBit s.port.intflags n true else s.port.intflags

/-- What the level check of pin `n` reports (R183). -/
def State.levelEvents (s : State) (n : PinIx) : List Event :=
  if s.LevelFires n then (if bitAt s.port.intflags n then [] else [.raise s.cfg.portVector])
  else if s.port.intflags = 0 then [.cancel s.cfg.portVector] else []

section

variable {s t : State} {n : PinIx}

theorem levelCheck_intflags (s : State) (n : PinIx) : (s.levelCheck n).port.intflags = s.levelFlags n := by
  unfold State.levelCheck State.levelFlags
  split
  · split
    · exact (withBit_self ‹_›).symm
    · rfl
  · split <;> rfl

/-- The level check where the request line agrees with INTFLAGS (R31): it agrees afterwards. -/
theorem levelCheck_eq_levelled (hq : s.portReq = (s.port.intflags != 0)) :
    s.levelCheck n = { (s.setIntflags (s.levelFlags n)).emitAll (s.levelEvents n) with
      portReq := s.levelFlags n != 0 } := by
  unfold State.levelCheck State.levelFlags State.levelEvents
  by_cases hf : s.LevelFires n
  · simp only [if_pos hf]
    by_cases hb : bitAt s.port.intflags n = true
    · rw [if_pos hb, if_pos hb, withBit_self hb, State.emitAll_nil, ← hq]; rfl
    · rw [if_neg hb, if_neg hb, bne_iff_ne.2 (ne_zero_of_bit (i := n) (by simp))]; rfl
  · simp only [if_neg hf]
    by_cases h0 : s.port.intflags = 0
    · rw [if_pos h0, if_pos h0, bne_eq_false_iff_eq.2 h0]; rfl
    · rw [if_neg h0, if_neg h0, State.emitAll_nil, ← hq]; rfl

theorem bitAt_levelFlags (s : State) (n i : PinIx) :
    bitAt (s.levelFlags n) i = (bitAt s.port.intflags i || (decide (i = n) && decide (s.LevelFires i))) := by
  unfold State.levelFlags
  by_cases e : i = n
  · subst e
    split <;> simp [*]
  · split <;> simp [e]

/-- Whether the level check of a pin fires does not depend on INTFLAGS. -/
theorem OnlyFlagsDiffer.levelFires (h : OnlyFlagsDiffer s t) (i : PinIx) : t.LevelFires i ↔ s.LevelFires i := by
  rw [h]; exact Iff.rfl

/-- The level checks of the pins `l` that `m` names set the flag of each pin whose condition holds (R180, R183). -/
theorem bitAt_levelCheckList (m : Byte) (l : List PinIx) (s : State) (i : PinIx) :
    bitAt (levelCheckList m l s).port.intflags i =
      (bitAt s.port.intflags i || (decide (i ∈ l) && bitAt m i && decide (s.LevelFires i))) := by
  induction l generalizing s with
  | nil => simp [levelCheckList]
  | cons k l ih =>
    unfold levelCheckList
    rw [ih]
    cases hm : bitAt m k
    · by_cases e : i = k
      · subst e; simp [hm]
      · simp [e]
    · simp only [if_true, levelCheck_intflags, bitAt_levelFlags, (onlyFlagsDiffer_levelCheck s k).levelFires i]
      by_cases e : i = k
      · subst e
        simp only [hm, List.mem_cons, true_or, decide_true, Bool.true_and, Bool.and_true, Bool.or_assoc]
        cases decide (s.LevelFires i) <;> simp
      · simp [e]

end

/-! ## INTFLAGS -/

/-- An acknowledgement clears the flags of `m`; where none is left it cancels the request and reports that (R180). -/
theorem acknowledge_eq (s : State) (m : Byte) :
    s.acknowledge m = { s with
      port := { s.port with intflags := clearOnes s.port.intflags m }
      portReq := if clearOnes s.port.intflags m = 0 then false else s.portReq
      trace := s.trace ++ (if clearOnes s.port.intflags m = 0 then [.cancel s.cfg.portVector] else []) } := by
  unfold State.acknowledge
  dsimp only [State.setIntflags]
  split
  · rfl
  · rw [List.append_nil]

theorem exec_wrPortIntflags {s : State} (ho : s.Operating) (hl : s.cfg.defaultLayout = true) (v : Byte) :
    exec (.wrPortIntflags v) s = writeIntflags v s :=
  transact_write (off := 0x09) ho (claimsOffset_port hl (by decide))

/-- Settles O27: without the re-assertion the write is an acknowledgement (`acknowledge_eq`), the VPORT's through O23. -/
theorem intflagsWriteOneToClear : Obligations.IntflagsWriteOneToClear := by
  intro s v i ho hl hre hi
  have e : exec i s = .next (s.acknowledge (s.maskPins v)) := by
    have port : exec (.wrPortIntflags v) s = .next (s.acknowledge (s.maskPins v)) := by
      rw [exec_wrPortIntflags ho hl, writeIntflags_eq, hre]; rfl
    rcases hi with rfl | ⟨rfl, hv⟩
    · exact port
    · obtain ⟨-, -, -, hflags⟩ := vportWritesAreCanonicalWrites s v ho hv hl
      exact hflags.trans port
  rw [acknowledge_eq] at e
  exact ⟨_, e, rfl, rfl, rfl, rfl, rfl⟩

theorem OnlyFlagsDiffer.onlyPortDiffers {s t : State} (h : OnlyFlagsDiffer s t) : OnlyPortDiffers s t := by
  rw [h]; rfl

/-- INTFLAGS after a write with the re-assertion: a written flag is what the level check says, any other is as it was. -/
theorem bitAt_reassert (s : State) (m : Byte) (i : PinIx) :
    bitAt (levelCheckList m pinOrder (s.acknowledge m)).port.intflags i =
      if bitAt m i then decide (s.isc i = .level) && !bitAt s.port.inp i else bitAt s.port.intflags i := by
  simp only [bitAt_levelCheckList, mem_pinOrder, (onlyFlagsDiffer_acknowledge s m).levelFires i]
  rw [acknowledge_eq, bitAt_clearOnes]
  cases bitAt m i <;> simp

/-- Settles O28: the flags by `bitAt_reassert`, the request line because the write keeps R31. -/
theorem intflagsLevelReasserts : Obligations.IntflagsLevelReasserts := by
  intro s v ho hl hre
  have e : writeIntflags v s = .next (levelCheckList (s.maskPins v) pinOrder (s.acknowledge (s.maskPins v))) := by
    rw [writeIntflags_eq, hre]; rfl
  have hf := onlyFlagsDiffer_writeIntflags e
  have hok := (ho.inv.port ho.ready).writeIntflags e
  exact ⟨_, (exec_wrPortIntflags ho hl v).trans e, hf.onlyPortDiffers, by rw [hf], by rw [hf],
    bitAt_reassert s (s.maskPins v), hok.portReq⟩

/-! ## PINnCTRL -/

section

variable {s : State} {n : PinIx} {v : Byte}

theorem requestOfInstr_pinctrlWrite (n : PinIx) (v : Byte) :
    requestOfInstr (pinctrlWrite n v) = some (.write .port (0x10 + n.val) v) := by
  fin_cases n <;> rfl

theorem exec_pinctrlWrite (ho : s.Operating) (hl : s.cfg.defaultLayout = true) (n : PinIx) (v : Byte) :
    exec (pinctrlWrite n v) s = writePinctrl topHandler n v s := by
  rw [exec_eq, requestOfInstr_pinctrlWrite]
  refine (transact_write ho (claimsOffset_port hl (by omega))).trans ?_
  simp only [regionOwner, writeHandler, portReg_pinctrl hl, portWrite]

theorem writePinctrl_absent (h : Handler) (hn : s.cfg.hasPin n = false) : writePinctrl h n v s = .next s :=
  if_neg (Bool.eq_false_iff.1 hn)

theorem writePinctrl_present (h : Handler) (hn : s.cfg.hasPin n = true) :
    writePinctrl h n v s =
      let t := (s.setPinctrl n v).levelCheck n
      if t.outputsDrive then drive h n (t.drivenState n) t else .next t :=
  if_pos hn

/-- What a drive leaves does not depend on the request line it began with. -/
theorem DrivenTo.of_portReq {t : State} {st : PinState} {b : Bool} (h : DrivenTo { s with portReq := b } n st t) :
    DrivenTo s n st t :=
  ⟨h.rest, h.dir, h.out, h.pinctrl, h.pins, h.inp, h.intflags, h.portReq, h.trace⟩

end

/-- Settles O30 by `writePinctrl_absent`. -/
theorem pinctrlWriteOfAnAbsentPin : Obligations.PinctrlWriteOfAnAbsentPin := fun _ n v ho hl hn =>
  (exec_pinctrlWrite ho hl n v).trans (writePinctrl_absent topHandler hn)

/-- Settles O29: the level check leaves what `levelCheck_eq_levelled` says, and the drive what `drive_drivenTo` says. -/
theorem pinctrlWriteOfAnExistingPin : Obligations.PinctrlWriteOfAnExistingPin := by
  intro s n v ho hs hl hn p fires c
  have hreg := ho.inv.registered (.inr ho.ready)
  have hlevel : p.levelCheck n = { c with portReq := c.port.intflags != 0 } :=
    levelCheck_eq_levelled (s := p) (ho.inv.port ho.ready).portReq
  have stored {t : State} (ht : t.port.pinctrl = p.port.pinctrl) :
      t.pinctrl n = v ∧ ∀ k, k ≠ n → t.pinctrl k = s.pinctrl k := by
    have hp : ∀ k, t.pinctrl k = p.pinctrl k := fun k => by simp only [State.pinctrl, ht]
    exact ⟨by rw [hp, State.setPinctrl_pinctrl, if_pos rfl],
      fun k hk => by rw [hp, State.setPinctrl_pinctrl, if_neg hk]⟩
  rw [exec_pinctrlWrite ho hl, writePinctrl_present _ hn]
  dsimp only
  rw [show (s.setPinctrl n v).levelCheck n = _ from hlevel]
  have hout : State.outputsDrive { c with portReq := c.port.intflags != 0 } = s.outputsDrive := rfl
  rw [hout]
  cases s.outputsDrive
  · exact ⟨_, rfl, (stored rfl).1, (stored rfl).2, rfl⟩
  · obtain ⟨t, e, hd⟩ := drive_drivenTo (s := { c with portReq := c.port.intflags != 0 }) topHandler n (p.drivenState n)
      (hreg.pinHook hn) hs ho.inv.delivering rfl
    have hst := stored hd.pinctrl
    exact ⟨t, e, hst.1, hst.2, hd.of_portReq⟩

/-! ## Absent pins -/

theorem initOp_pin {s t : State} (e : initOp s = .next t) (k : PinIx) : t.pin k = s.pin k := by
  unfold initOp at e
  split at e
  · injection e with e; subst e; rfl
  · injection e with e; subst e; rfl

/-- Settles O34: INIT drives no pin, and every other transaction keeps the state of the absent pins
(`transact_preserves`). -/
theorem absentPinsAreNeverDriven : Obligations.AbsentPinsAreNeverDriven := by
  intro i s t k e hk
  obtain ⟨q, -, e⟩ := exec_next e
  by_cases hq : q = .init
  · subst hq
    obtain ⟨-, -, e⟩ := transact_next e
    exact initOp_pin e k
  · obtain ⟨-, hp⟩ := transact_preserves hq e
    exact hp.absent k hk

end Sys2Proof.Machine
end

section
/-! PROOFS. A pin change that only the port's own hook hears (O32, O33); and the PORT, the comparator and the sleep mode in a
silent environment: what a transaction of the one leaves of the other (O53), and a port that no sleep mode gates (O60). -/

namespace Sys2Proof.Machine

open Sys2Proof

/-! ## A drive that only the port's hook hears -/

section

variable {s u : State} {n : PinIx} {st : PinState}

/-- A drive to another state where the port's hook alone is on the pin's list: the delivery is that one call (R124, R130). -/
theorem drive_port_alone {h : Handler} (hp : s.pin n ≠ some st) (hd : s.delivering = [])
    (hl : s.subscribers (.pin n) = [.port n]) (hu : portHook h st n (s.delivers n st) = .next u)
    (hsu : OnlyPortDiffers (s.delivers n st) u) : drive h n st s = .next { u with delivering := s.delivering } := by
  have unmodified : u.subscribers (.pin n) = [.port n] := (hsu.subscribers _).trans hl
  rw [drive_delivers hp hd, hl, restOfDelivery_cons (by exact hl), callPinHook, hu, andThen_next]
  unfold restOfDelivery
  rw [if_pos unmodified, deliver_nil, andThen_next, hsu.delivering, State.delivers_delivering, List.erase_cons_head, hd]

/-- PINSET of an existing pin in a Ready block is a drive (R108). -/
theorem exec_pinsetOf_present (hr : s.init = .ready) (hn : s.cfg.hasPin n = true) :
    exec (pinsetOf st n) s = drive topHandler n st s :=
  (exec_pinsetOf hr st n).trans (if_pos hn)

/-- R225: the port's hook forwards Shorted. -/
theorem portHook_shorted (h : Handler) :
    portHook h .shorted n s = .next (s.emit (.pinShorted ⟨s.cfg.portLetter, n⟩)) := if_pos rfl

theorem hookFlag_sensed (hsh : st ≠ .shorted) (hin : s.inputsSense = true) :
    s.hookFlag st n = senseHolds (s.isc n) (bitAt s.port.inp n) (pinLevel st) := by
  simp [State.hookFlag, bne_iff_ne.2 hsh, hin]

/-- The PORT after a call of its hook that senses (R222, R224): a flag that was set already is no change (R228). -/
theorem afterHook_sensed (hsh : st ≠ .shorted) (hin : s.inputsSense = true) :
    let raised := senseHolds (s.isc n) (bitAt s.port.inp n) (pinLevel st) && !bitAt s.port.intflags n
    s.afterHook st n = { s with
      port := { s.port with
        inp := withBit s.port.inp n (pinLevel st)
        intflags := if raised then withBit s.port.intflags n true else s.port.intflags }
      portReq := s.portReq || raised } := by
  unfold State.afterHook
  rw [hookFlag_sensed hsh hin, bne_iff_ne.2 hsh, hin]
  cases hb : bitAt s.port.intflags n with
  | false => simp
  | true => simp [withBit_self hb]

/-- Where nobody subscribes to the value signal, all that the hook reports is the Raise of a new flag (R222, R228). -/
theorem hookEvents_unheard (hsh : st ≠ .shorted) (hin : s.inputsSense = true) (hl : s.subscribers .portValue = []) :
    s.hookEvents s.port.inp n st =
      if senseHolds (s.isc n) (bitAt s.port.inp n) (pinLevel st) && !bitAt s.port.intflags n
      then [.raise s.cfg.portVector] else [] := by
  simp [State.hookEvents, State.signals, hsh, hin, hl]

end

/-- Settles O32: the drive is one call of the port's hook (`drive_port_alone`), which nobody hears (`portHook_unheard`). -/
theorem pinChangeSetsTheFlagAndRaises : Obligations.PinChangeSetsTheFlagAndRaises := by
  intro s n st ho hn hl hv hin hp hsh raised
  have hook := portHook_unheard (s := s.delivers n st) topHandler st n hv (by simp)
  rw [afterHook_sensed (s := s.delivers n st) hsh hin, hookEvents_unheard (s := s.delivers n st) hsh hin hv] at hook
  exact (exec_pinsetOf_present ho.ready hn).trans (drive_port_alone hp ho.inv.delivering hl hook rfl)

/-- Settles O33: the one call of the port's hook forwards Shorted (`portHook_shorted`). -/
theorem shortedIsForwardedAndIgnored : Obligations.ShortedIsForwardedAndIgnored := by
  intro s n ho hn hl hp
  exact (exec_pinsetOf_present (st := .shorted) ho.ready hn).trans
    (drive_port_alone hp ho.inv.delivering hl (portHook_shorted topHandler) rfl)

/-! ## What the comparator leaves of the PORT -/

/-- No hook outside the block acts, and the PORT's registers, the pins and the PORT request line are those of `s0`. -/
def PortSideAs (s0 : State) (_ : List BusId) (s : State) : Prop :=
  s.env = [] ∧ s.port = s0.port ∧ s.pins = s0.pins ∧ s.portReq = s0.portReq

theorem keptByDelivery_portSideAs (s0 : State) (h : Handler) : KeptByDelivery (PortSideAs s0) h :=
  have hac : ∀ {d s t}, OnlyAcDiffers s t → PortSideAs s0 d s → PortSideAs s0 d t := fun e p => by rw [e.rest]; exact p
  { ac := hac
    call := kept_callOutside_silent (P := PortSideAs s0) hac (fun p => p.1) h
    push := fun _ _ _ p _ => p
    pop := fun _ _ _ _ _ p _ => p }

/-- R43, R4: a transaction that has no business with the PORT leaves it alone. -/
theorem transact_sparing {q : Request} {s t : State} (hq : sparesPort q = true) (hs : s.Silent)
    (e : transact q s = .next t) : t.port = s.port ∧ t.pins = s.pins ∧ t.portReq = s.portReq := by
  obtain ⟨-, ha, e⟩ := transact_next e
  have hl : s.Live := live_of_admission (by rintro rfl; cases hq) ha
  obtain ⟨-, -, kept⟩ :=
    (keptByDelivery_portSideAs s topHandler).kept_sparing hq s.delivering s hl ⟨hs, rfl, rfl, rfl⟩ t e
  exact kept

/-! ## Two runs that differ in the sleep mode

One induction over the operations of the PORT serves both statements: with `m` the mode of the state itself it says that the
PORT leaves the comparator alone, gated or not; with any `m` and an ungated port, that it does the same in every mode. -/

/-- The state in sleep mode `m` (R43), the rest as it is. -/
def State.inMode (s : State) (m : Option SleepMode) : State := { s with sleep := m }

/-- No hook outside the block acts, and the port does the same in mode `m` as in the state's own: no mode gates it (R230),
or `m` is that mode. -/
structure Blind (m : Option SleepMode) (s : State) : Prop where
  silent : s.env = []
  mode : s.cfg.portSleepGated = false ∨ s.sleep = m

/-- If `r`, what an operation comes to in `s`, is a next state `t`, then only the PORT's side differs from `s` in it, and
`r'`, what the operation comes to in `s` put into mode `m`, is `t` put into mode `m`. -/
def Mirrored (m : Option SleepMode) (s : State) (r r' : Res) : Prop :=
  ∀ t, r = .next t → OnlyPortDiffers s t ∧ r' = .next (t.inMode m)

section

variable {m : Option SleepMode} {s t u : State} {r r' : Res}

theorem Blind.congr (hb : Blind m s) (henv : u.env = s.env) (hcfg : u.cfg = s.cfg) (hsl : u.sleep = s.sleep) :
    Blind m u :=
  ⟨henv.trans hb.silent, hb.mode.imp (fun h => by rw [hcfg, h]) hsl.trans⟩

theorem Blind.onlyPort (hb : Blind m s) (h : OnlyPortDiffers s u) : Blind m u :=
  hb.congr h.env h.cfg (by rw [h])

theorem Blind.inputsSense (hb : Blind m s) : (s.inMode m).inputsSense = s.inputsSense := by
  rcases hb.mode with hg | hm
  · rw [inputsSense_of_ungated hg, inputsSense_of_ungated (s := s.inMode m) hg]
  · rw [← hm]; rfl

theorem outputsDrive_of_ungated (h : s.cfg.portSleepGated = false) : s.outputsDrive = true := by
  unfold State.outputsDrive
  split
  · rfl
  · rw [h]; rfl

theorem Blind.outputsDrive (hb : Blind m s) : (s.inMode m).outputsDrive = s.outputsDrive := by
  rcases hb.mode with hg | hm
  · rw [outputsDrive_of_ungated hg, outputsDrive_of_ungated (s := s.inMode m) hg]
  · rw [← hm]; rfl

/-! ### Putting operations together -/

theorem mirrored_next (h : OnlyPortDiffers s t) : Mirrored m s (.next t) (.next (t.inMode m)) := by
  intro v e; injection e with e; subst e; exact ⟨h, rfl⟩

theorem mirrored_self (m : Option SleepMode) (s : State) : Mirrored m s (.next s) (.next (s.inMode m)) :=
  mirrored_next (.refl s)

theorem mirrored_fault (f : Fault) : Mirrored m s (.fault f) r' := by
  intro t e; cases e

theorem mirrored_refused (q : Refusal) : Mirrored m s (.refused q) r' := by
  intro t e; cases e

theorem Mirrored.after (h : OnlyPortDiffers s u) (k : Mirrored m u r r') : Mirrored m s r r' := fun t e =>
  (k t e).imp_left h.trans

theorem mirrored_ite {p : Prop} [Decidable p] {q q' : Res} (h : p → Mirrored m s r r') (h' : ¬ p → Mirrored m s q q') :
    Mirrored m s (if p then r else q) (if p then r' else q') := by
  split
  · exact h ‹_›
  · exact h' ‹_›

theorem mirrored_andThen {k k' : State → Res} (hr : Mirrored m s r r')
    (hk : ∀ u, OnlyPortDiffers s u → Mirrored m u (k u) (k' (u.inMode m))) :
    Mirrored m s (andThen r k) (andThen r' k') := by
  intro t e
  obtain ⟨u, hu, e⟩ := andThen_eq_next.1 e
  obtain ⟨hsu, rfl⟩ := hr u hu
  exact (hk u hsu).after hsu t e

/-! ### The signal bus -/

theorem onlyPortDiffers_emit (s : State) (e : Event) : OnlyPortDiffers s (s.emit e) := rfl

theorem callOutside_mirrored (hb : Blind m s) (h : Handler) (bus : BusId) (id : SignalId) (p : Payload) (tag : Int) :
    Mirrored m s (callOutside h bus id p tag s) (callOutside h bus id p tag (s.inMode m)) := by
  rw [callOutside_silent h bus id p tag hb.silent, callOutside_silent (s := s.inMode m) h bus id p tag hb.silent]
  exact mirrored_next (onlyPortDiffers_emit s _)

section

variable {call : Subscriber → State → Res} {bus : BusId}

theorem deliver_mirrored {snap l : List Subscriber} (hb : Blind m s)
    (hc : ∀ x v, Blind m v → Mirrored m v (call x v) (call x (v.inMode m))) :
    Mirrored m s (deliver call bus snap l s) (deliver call bus snap l (s.inMode m)) := by
  induction l generalizing s with
  | nil => exact mirrored_self m s
  | cons x l ih =>
    exact mirrored_andThen (hc x s hb) fun u hu =>
      mirrored_ite (fun _ => ih (hb.onlyPort hu)) fun _ => mirrored_fault _

theorem signalRaise_mirrored (hb : Blind m s)
    (hc : ∀ x v, Blind m v → Mirrored m v (call x v) (call x (v.inMode m))) :
    Mirrored m s (signalRaise call bus s) (signalRaise call bus (s.inMode m)) := by
  refine mirrored_ite (fun _ => mirrored_fault _) fun _ t e => ?_
  obtain ⟨u, hu, e⟩ := andThen_eq_next.1 e
  injection e with e
  obtain ⟨ou, hu'⟩ := deliver_mirrored (s := { s with delivering := bus :: s.delivering }) (hb.congr rfl rfl rfl) hc u hu
  refine ⟨?_, (congrArg (andThen · _) hu').trans ?_⟩
  · rw [← e, ou]
    unfold OnlyPortDiffers
    simp only [List.erase_cons_head]
  · rw [andThen_next, ← e]; rfl

end

theorem raiseOutside_mirrored (hb : Blind m s) (h : Handler) (bus : BusId) (id : SignalId) (p : Payload) :
    Mirrored m s (raiseOutside h bus id p s) (raiseOutside h bus id p (s.inMode m)) :=
  signalRaise_mirrored hb fun x v hv => by
    cases x with
    | port k => exact mirrored_self m v
    | ext k tag => exact callOutside_mirrored hv h bus id p tag

/-! ### Flags -/

theorem flagPin_inMode (s : State) (i : PinIx) (c : Bool) : (s.inMode m).flagPin i c = (s.flagPin i c).inMode m := by
  unfold State.flagPin
  rw [apply_ite (State.inMode · m)]
  rfl

theorem levelCheck_inMode (s : State) (n : PinIx) : (s.inMode m).levelCheck n = (s.levelCheck n).inMode m := by
  unfold State.levelCheck
  rw [apply_ite (State.inMode · m), apply_ite (State.inMode · m), apply_ite (State.inMode · m)]
  rfl

theorem levelCheckList_inMode (v : Byte) (l : List PinIx) (s : State) :
    levelCheckList v l (s.inMode m) = (levelCheckList v l s).inMode m := by
  induction l generalizing s with
  | nil => rfl
  | cons i l ih =>
    unfold levelCheckList
    rw [levelCheck_inMode, ← apply_ite (State.inMode · m), ih]

theorem acknowledge_inMode (s : State) (v : Byte) : (s.inMode m).acknowledge v = (s.acknowledge v).inMode m := by
  unfold State.acknowledge
  dsimp only
  rw [apply_ite (State.inMode · m)]
  rfl

theorem writeIntflags_mirrored (v : Byte) (s : State) :
    Mirrored m s (writeIntflags v s) (writeIntflags v (s.inMode m)) := by
  intro t e
  refine ⟨(onlyFlagsDiffer_writeIntflags e).onlyPortDiffers, ?_⟩
  rw [writeIntflags_eq] at e ⊢
  injection e with e
  rw [← e, apply_ite (State.inMode · m), ← levelCheckList_inMode, ← acknowledge_inMode]
  rfl

/-! ### Drives -/

theorem portHook_mirrored (hb : Blind m s) (h : Handler) (st : PinState) (i : PinIx) :
    Mirrored m s (portHook h st i s) (portHook h st i (s.inMode m)) := by
  unfold portHook
  rw [hb.inputsSense]
  refine mirrored_ite (fun _ => mirrored_next (onlyPortDiffers_emit s _)) fun _ =>
    mirrored_ite (fun _ => mirrored_self m s) fun _ => mirrored_andThen ?recorded fun u _ => ?flagged
  case recorded =>
    refine mirrored_ite (fun _ => ?_) fun _ => mirrored_self m s
    have stored : OnlyPortDiffers s (s.setIn (withBit s.port.inp i (pinLevel st))) := rfl
    exact .after stored (raiseOutside_mirrored (hb.onlyPort stored) h _ _ _)
  case flagged =>
    rw [flagPin_inMode]
    exact mirrored_next (onlyFlagsDiffer_flagPin u i _).onlyPortDiffers

theorem drive_mirrored (hb : Blind m s) (h : Handler) (i : PinIx) (st : PinState) :
    Mirrored m s (drive h i st s) (drive h i st (s.inMode m)) := by
  have driven : OnlyPortDiffers s (s.setPin i st) := rfl
  refine mirrored_ite (fun _ => mirrored_self m s) fun _ =>
    .after driven (signalRaise_mirrored (hb.onlyPort driven) fun x v hv => ?_)
  cases x with
  | port k => exact portHook_mirrored hv h st k
  | ext k tag => exact callOutside_mirrored hv h _ _ _ tag

theorem redriveList_mirrored (hb : Blind m s) (h : Handler) (l : List PinIx) :
    Mirrored m s (redriveList h l s) (redriveList h l (s.inMode m)) := by
  induction l generalizing s with
  | nil => exact mirrored_self m s
  | cons i l ih =>
    exact mirrored_andThen (mirrored_ite (fun _ => drive_mirrored hb h i _) fun _ => mirrored_self m s) fun u hu =>
      ih (hb.onlyPort hu)

theorem redriveAll_mirrored (hb : Blind m s) (h : Handler) :
    Mirrored m s (redriveAll h s) (redriveAll h (s.inMode m)) := by
  unfold redriveAll
  rw [hb.outputsDrive]
  exact mirrored_ite (fun _ => redriveList_mirrored hb h pinOrder) fun _ => mirrored_self m s

/-! ### Register writes -/

theorem dirWrite_mirrored (hb : Blind m s) (h : Handler) (v : Byte) :
    Mirrored m s (redriveAll h (s.setDir v)) (redriveAll h ((s.inMode m).setDir v)) :=
  have stored : OnlyPortDiffers s (s.setDir v) := rfl
  .after stored (redriveAll_mirrored (hb.onlyPort stored) h)

theorem outWrite_mirrored (hb : Blind m s) (h : Handler) (v : Byte) :
    Mirrored m s (redriveAll h (s.setOut v)) (redriveAll h ((s.inMode m).setOut v)) :=
  have stored : OnlyPortDiffers s (s.setOut v) := rfl
  .after stored (redriveAll_mirrored (hb.onlyPort stored) h)

theorem writePinctrl_mirrored (hb : Blind m s) (h : Handler) (n : PinIx) (v : Byte) :
    Mirrored m s (writePinctrl h n v s) (writePinctrl h n v (s.inMode m)) := by
  have stored : OnlyPortDiffers s (s.setPinctrl n v) := rfl
  have checked := stored.trans (onlyFlagsDiffer_levelCheck (s.setPinctrl n v) n).onlyPortDiffers
  have hbc := hb.onlyPort checked
  have hmode : ((s.inMode m).setPinctrl n v).levelCheck n = ((s.setPinctrl n v).levelCheck n).inMode m :=
    levelCheck_inMode (s.setPinctrl n v) n
  unfold writePinctrl
  dsimp only
  rw [hmode, hbc.outputsDrive]
  exact mirrored_ite (fun _ => .after checked (mirrored_ite (fun _ => drive_mirrored hbc h n _) fun _ => mirrored_self m _))
    fun _ => mirrored_self m s

theorem portWrite_mirrored (hb : Blind m s) (h : Handler) (reg : PortReg) (v : Byte) :
    Mirrored m s (portWrite h reg v s) (portWrite h reg v (s.inMode m)) := by
  cases reg with
  | dir | dirset | dirclr | dirtgl => exact dirWrite_mirrored hb h _
  | out | outset | outclr | outtgl => exact outWrite_mirrored hb h _
  | inp | reserved => exact mirrored_self m s
  | intflags => exact writeIntflags_mirrored v s
  | pinctrl n => exact writePinctrl_mirrored hb h n v

/-! ### Transactions -/

/-- A transaction of the PORT: a read or write of its two regions, PINSET and GET_PORT_SIGNAL. -/
def concernsPort : Request → Bool
  | .read r _ | .write r _ _ => r != .ac
  | .pinset _ _ | .getPortSignal => true
  | _ => false

theorem busRead_mirrored (r : Region) (off : Nat) (s : State) :
    Mirrored m s (busRead r off s) (busRead r off (s.inMode m)) := by
  have hpeek : (s.inMode m).peek r off = s.peek r off := rfl
  unfold busRead
  rw [hpeek]
  cases s.peek r off with
  | none => exact mirrored_refused _
  | some b => exact mirrored_next (onlyPortDiffers_emit s _)

theorem writeHandler_mirrored (hb : Blind m s) (h : Handler) (o : Peripheral) {r : Region} (hr : r ≠ .ac) (off : Nat)
    (v : Byte) : Mirrored m s (writeHandler h o r off v s) (writeHandler h o r off v (s.inMode m)) := by
  cases o <;> cases r
  case port.port => exact portWrite_mirrored hb h _ v
  case port.vport =>
    show Mirrored m s (vportWrite h _ v s) (vportWrite h _ v _)
    rw [vportWrite_eq, vportWrite_eq]
    exact portWrite_mirrored hb h _ v
  case ac.port | ac.vport => exact mirrored_self m s
  all_goals exact absurd rfl hr

theorem busWrite_mirrored (hb : Blind m s) (h : Handler) {r : Region} (hr : r ≠ .ac) (off : Nat) (v : Byte) :
    Mirrored m s (busWrite h r off v s) (busWrite h r off v (s.inMode m)) := by
  have hclaim : claimAt (s.inMode m).claims ((s.inMode m).cfg.base r + off) = claimAt s.claims (s.cfg.base r + off) := rfl
  unfold busWrite
  rw [hclaim]
  cases claimAt s.claims (s.cfg.base r + off) with
  | none => exact mirrored_refused _
  | some c => exact writeHandler_mirrored hb h c.owner hr off v

theorem performAdmitted_mirrored (hb : Blind m s) (h : Handler) {q : Request} (hq : concernsPort q = true) :
    Mirrored m s (performAdmitted h q s) (performAdmitted h q (s.inMode m)) := by
  cases q with
  | read r off => exact busRead_mirrored r off s
  | write r off v => exact busWrite_mirrored hb h (by simpa [concernsPort] using hq) off v
  | pinset n st => exact mirrored_ite (fun _ => drive_mirrored hb h n st) fun _ => mirrored_refused _
  | getPortSignal => exact mirrored_next (onlyPortDiffers_emit s _)
  | _ => cases hq

/-- R230, R43: a transaction of the PORT changes its side only, and does the same in mode `m`. -/
theorem transact_mirrored (hb : Blind m s) {q : Request} (hq : concernsPort q = true) :
    Mirrored m s (transact q s) (transact q (s.inMode m)) := by
  have hadmission : admission (s.inMode m).init q = admission s.init q := rfl
  unfold transact transactWith
  rw [hadmission]
  refine mirrored_ite (fun _ => ?_) fun _ => mirrored_refused _
  cases admission s.init q with
  | some r => exact mirrored_refused r
  | none => exact performAdmitted_mirrored hb topHandler hq

end

/-! ## The words of the PORT and of the comparator -/

section

variable {w : Tw20} {u : Volt} {s t : State}

/-- A word that answers a next state did so by the transaction R91 decodes it to. -/
theorem exec_decode_next (e : exec (decode w u) s = .next t) :
    ∃ q, requestOfWord s.cfg w u = .ok q ∧ requestOfInstr (decode w u) = some q ∧ transact q s = .next t := by
  obtain ⟨q, hq, e⟩ := exec_next e
  obtain ⟨hc, -, -⟩ := transact_next e
  exact ⟨q, by rw [requestOfWord_eq_verdict, verdictOfInstr_some hq, if_pos hc], hq, e⟩

/-- R91: a bus word is the read or the write of its region. -/
theorem requestOfWord_bus {c : Config} {q : Request} (hz : fieldZ w = false) (hr : fieldR w ≠ 3#2)
    (hq : requestOfWord c w u = .ok q) :
    (∃ off, q = .read (regionOfField (fieldR w)) off) ∨ ∃ off v, q = .write (regionOfField (fieldR w)) off v := by
  unfold requestOfWord at hq
  rw [hz, if_neg Bool.false_ne_true, if_neg hr] at hq
  dsimp only at hq
  split_ifs at hq
  · injection hq with hq; exact .inr ⟨_, _, hq.symm⟩
  · injection hq with hq; exact .inl ⟨_, hq.symm⟩

/-- R97: an EVENT word is the event of its code. -/
theorem requestOfWord_event {c : Config} {q : Request} (hz : fieldZ w = false) (hr : fieldR w = 3#2)
    (hq : requestOfWord c w u = .ok q) : requestOfEvent (fieldO w) (fieldD w) u = .ok q := by
  unfold requestOfWord at hq
  rw [hz, if_neg Bool.false_ne_true, if_pos hr] at hq
  split_ifs at hq
  exact hq

theorem concernsPort_of_event {o d : Byte} {q : Request} (ho : o ∈ [0x00#8, 0x09#8])
    (hq : requestOfEvent o d u = .ok q) : concernsPort q = true := by
  have code : o.toNat = 0 ∨ o.toNat = 9 := by
    simp only [List.mem_cons, List.not_mem_nil, or_false] at ho
    rcases ho with rfl | rfl
    · exact .inl rfl
    · exact .inr rfl
  unfold requestOfEvent at hq
  split at hq
  case h_1 =>
    split at hq
    · injection hq with hq; subst hq; rfl
    · cases hq
  case h_10 => injection hq with hq; subst hq; rfl
  case h_11 => cases hq
  all_goals omega

theorem sparesPort_of_event {o d : Byte} {q : Request} (ho : 0x03 ≤ o.toNat) (hq : requestOfEvent o d u = .ok q) :
    sparesPort q = true := by
  unfold requestOfEvent at hq
  split at hq
  case h_1 | h_2 | h_3 => omega
  case h_11 => cases hq
  all_goals injection hq with hq; subst hq; rfl

/-- A word of the PORT is a transaction of the PORT. -/
theorem concernsPort_of_word {c : Config} {q : Request} (hz : fieldZ w = false)
    (hr : fieldR w = 0#2 ∨ fieldR w = 1#2 ∨ (fieldR w = 3#2 ∧ fieldO w ∈ [0x00#8, 0x09#8]))
    (hq : requestOfWord c w u = .ok q) : concernsPort q = true := by
  rcases hr with hr | hr | ⟨hr, ho⟩
  case inr.inr => exact concernsPort_of_event ho (requestOfWord_event hz hr hq)
  all_goals
    have hbus := requestOfWord_bus hz (by rw [hr]; decide) hq
    rw [hr] at hbus
    rcases hbus with ⟨off, rfl⟩ | ⟨off, v, rfl⟩ <;> rfl

/-- A word of the comparator is a transaction that spares the PORT. -/
theorem sparesPort_of_word {c : Config} {q : Request} (hz : fieldZ w = false)
    (hr : fieldR w = 2#2 ∨ (fieldR w = 3#2 ∧ 0x03 ≤ (fieldO w).toNat ∧ (fieldO w).toNat ≤ 0x08))
    (hq : requestOfWord c w u = .ok q) : sparesPort q = true := by
  rcases hr with hr | ⟨hr, ho, -⟩
  · have hbus := requestOfWord_bus hz (by rw [hr]; decide) hq
    rw [hr] at hbus
    rcases hbus with ⟨off, rfl⟩ | ⟨off, v, rfl⟩ <;> rfl
  · exact sparesPort_of_event ho (requestOfWord_event hz hr hq)

end

/-- Settles O53: a word of the AC spares the PORT (`transact_sparing`), and one of the PORT changes the PORT's side only
(`transact_mirrored`, in the state's own mode). -/
theorem portAndComparatorDoNotInterfere : Obligations.PortAndComparatorDoNotInterfere := by
  intro w u s t hs hz e
  obtain ⟨q, hq, -, e⟩ := exec_decode_next e
  refine ⟨fun hr => transact_sparing (sparesPort_of_word hz hr hq) hs e, fun hr => ?_⟩
  obtain ⟨hst, -⟩ := transact_mirrored (m := s.sleep) ⟨hs, .inr rfl⟩ (concernsPort_of_word hz hr hq) t e
  rw [hst]
  exact ⟨rfl, rfl, rfl⟩

/-- Settles O60 by `transact_mirrored`. -/
theorem ungatedPortIgnoresSleep : Obligations.UngatedPortIgnoresSleep := by
  intro w u s t mode hs hg hz hr e
  obtain ⟨q, hq, hi, e⟩ := exec_decode_next e
  have hport : concernsPort q = true :=
    concernsPort_of_word hz (hr.imp_right (.imp_right fun ⟨h3, h0⟩ => ⟨h3, by simp [h0]⟩)) hq
  obtain ⟨-, e'⟩ := transact_mirrored (m := mode) ⟨hs, .inl hg⟩ hport t e
  rw [exec_eq, hi]
  exact e'

end Sys2Proof.Machine
end

section
/-! PROOFS. The comparator's registers: its reads (O17), INTCTRL and STATUS (O44, O45), CTRLA and MUXCTRLA (O41, O42, O43); the
faults of an evaluation (O58), the publication of a changed output (O48), and what sets STATUS.CMP (O52). -/

namespace Sys2Proof.Machine

open Sys2Proof

/-! ## The AC region -/

section

variable {s : State} {i : Instr} {off : Nat} {v b : Byte}

theorem claimsOffset_ac_of_span {c : Config} (hs : c.acSpan = 8) (hoff : off < 8) : c.claimsOffset .ac off = true := by
  simp [Config.claimsOffset, Config.present, Config.span, hs, hoff]

/-- An AC read of an operating block gives the register's value under the mask of R155 (R152, R248). -/
theorem exec_acRead (ho : s.Operating) (hs : s.cfg.acSpan = 8) (hq : requestOfInstr i = some (.read .ac off))
    (hoff : off < 8) (hb : s.acValue (acReg off) &&& s.cfg.maskAt .ac off = b) :
    exec i s = .next (s.emit (.readData b)) := by
  rw [exec_eq, hq, ← hb]
  exact transact_read ho (claimsOffset_ac_of_span hs hoff)

/-- An AC write of an operating block goes to the register's handler (R153, R244 to R249). -/
theorem exec_acWrite (ho : s.Operating) (hs : s.cfg.acSpan = 8) (hq : requestOfInstr i = some (.write .ac off v))
    (hoff : off < 8) : exec i s = acWrite topHandler (acReg off) v s := by
  rw [exec_eq, hq]
  exact transact_write ho (claimsOffset_ac_of_span hs hoff)

end

/-! ## Reads -/

theorem decode_reservedReads_ac {off : Byte} : ∀ row ∈ reservedReads .ac, inRange row.1 row.2.1 off = true →
    decode (8#4 ++ off ++ 0#8) 0 = row.2.2 off := by
  simp only [reservedReads, List.forall_mem_cons, List.not_mem_nil, false_implies, implies_true, and_true]
  refine ⟨fun h => ?_, fun h => ?_, (decode_of_encode · rfl)⟩
  · obtain rfl := eq_of_inRange_self (k := 0x01) h
    exact decode_of_encode rfl rfl
  · obtain rfl := eq_of_inRange_self (k := 0x03) h
    exact decode_of_encode rfl rfl

/-- A reserved row of the AC is the read of an offset below 8 that names no register (R95, R100). -/
theorem exec_reservedRead_ac {s : State} {off : Byte} (ho : s.Operating) (hs : s.cfg.acSpan = 8) :
    ∀ row ∈ reservedReads .ac, inRange row.1 row.2.1 off = true →
      exec (row.2.2 off) s = .next (s.emit (.readData 0)) := by
  intro row hrow hoff
  obtain ⟨hq, hn⟩ := undefinedReads_spec row (List.mem_append_left _ hrow) hoff
  have hlt : off.toNat < 8 := by
    have hi : row.2.1 < 8 := by revert row; simp [reservedReads]
    have := inRange_bounds hoff
    omega
  exact exec_acRead ho hs hq hlt (by rw [acReg_eq_reserved hn]; exact BitVec.zero_and)

/-- STATUS holds CMP at bit 0 and STATE at bit 4, and its mask is these two bits (R40, R107). -/
theorem acStatus_masked (s : State) :
    s.acStatus &&& statusMask = (if s.ac.cmp then 1#8 else 0#8) ||| ((if s.ac.out then 1#8 else 0#8) <<< 4) := by
  unfold State.acStatus
  cases s.ac.cmp <;> cases s.ac.out <;> rfl

/-- Bit 3 of CTRLA is not stored (R37, R104). -/
theorem State.AcOk.ctrla_bit3 {s : State} (h : s.AcOk) : s.ac.ctrla.getLsbD 3 = false := by
  have hbit := congrArg (BitVec.getLsbD · 3) (and_eq_self_of_within h.ctrla)
  simpa [ctrlaMask] using hbit.symm

/-- Settles O17: the words by O1; each read gives its register under the mask of R155, within which the invariant keeps the
registers. -/
theorem acReadsReturnTheRegisters : Obligations.AcReadsReturnTheRegisters := by
  refine ⟨⟨?_, ?_, ?_, ?_, fun row h off => decode_reservedReads_ac row h⟩, fun s ho hs => ?_⟩
  iterate 4 exact decode_of_encode rfl rfl
  have hac := ho.inv.ac ho.ready
  exact ⟨exec_acRead ho hs rfl (by decide) (and_eq_self_of_within hac.ctrla), hac.ctrla_bit3,
    exec_acRead ho hs rfl (by decide) (and_eq_self_of_within hac.muxctrla),
    exec_acRead ho hs rfl (by decide) (and_eq_self_of_within hac.intctrl),
    exec_acRead ho hs rfl (by decide) (acStatus_masked s),
    fun row h off => exec_reservedRead_ac ho hs row h⟩

/-! ## INTCTRL and STATUS -/

section

variable {s : State}

/-- `updateAcReq()` where the request line is as R262 wants it. -/
theorem updateAcReq_self (h : s.acReq = s.acReqWanted) : s.updateAcReq = s := by
  unfold State.updateAcReq
  rw [← h]
  cases s.acReq <;> rfl

/-- R262: with CMP clear nothing is requested, and a pending request is cancelled. -/
theorem updateAcReq_cleared (s : State) : (s.setCmp false).updateAcReq = { s with
    ac := { s.ac with cmp := false }
    acReq := false
    trace := s.trace ++ (if s.acReq then [.cancel s.cfg.acVector] else []) } := by
  rw [State.updateAcReq_eq]
  simp [State.acReqWanted, State.setCmp]

theorem acReqWanted_setIntctrl (s : State) (v : Byte) :
    (s.setIntctrl (v &&& intctrlMask)).acReqWanted = (s.ac.cmp && v.getLsbD 0) := by
  simp [State.acReqWanted, State.acIntEnable, intctrlMask]

end

/-- Settles O44: the words by O1; the line follows the new enable by `updateAcReq()` (R262). -/
theorem intctrlWriteSetsTheRequest : Obligations.IntctrlWriteSetsTheRequest := by
  refine ⟨fun v => decode_of_encode rfl rfl, fun s v ho hs => ?_⟩
  have hw : exec (.wrAcIntctrl v) s = .next (s.setIntctrl (v &&& intctrlMask)).updateAcReq :=
    exec_acWrite (off := 0x06) ho hs rfl (by decide)
  rw [hw, State.updateAcReq_eq, acReqWanted_setIntctrl]
  rfl

/-- Settles O45: the words by O1; a clear of CMP takes the request back, and without one the line is as the invariant has
it. -/
theorem statusWriteOneToClear : Obligations.StatusWriteOneToClear := by
  refine ⟨fun v => decode_of_encode rfl rfl, fun s v ho hs => ?_⟩
  have hw : exec (.wrAcStatus v) s = .next (if v.getLsbD 0 then s.setCmp false else s).updateAcReq :=
    exec_acWrite (off := 0x07) ho hs rfl (by decide)
  rw [hw]
  split
  · rw [updateAcReq_cleared]
  · rw [updateAcReq_self (ho.inv.ac ho.ready).acReq]

/-! ## The faults of an evaluation -/

section

variable {s : State} {m : Mux} {f : Fault} {u : Volt}

theorem inputValue_fault (hf : s.inputFault m = some f) (k : Volt → Res) : inputValue m s k = .fault f := by
  cases hsel : s.acSelected m with
  | none =>
    simp only [State.inputFault, hsel, Option.some.injEq] at hf
    simp only [inputValue, hsel, hf]
  | some c =>
    cases c with
    | src n =>
      simp only [State.inputFault, hsel, Option.ite_none_right_eq_some, Option.some.injEq] at hf
      obtain ⟨hv, hf⟩ := hf
      simp only [inputValue, hsel, hv, hf]
    | ref =>
      simp only [State.inputFault, hsel, Option.ite_none_right_eq_some, Option.some.injEq] at hf
      obtain ⟨hv, hf⟩ := hf
      simp only [inputValue, hsel, hv, hf]

/-- A channel faults exactly where it has no value (R242). -/
theorem inputFault_eq_none_iff : s.inputFault m = none ↔ ∃ u, s.acInput m = some u := by
  unfold State.inputFault State.acInput
  split <;> simp [Option.ne_none_iff_exists']

theorem acEval_fault (h : Handler) (ha : s.acActive = true) (hf : s.evalFault = some f) : acEval h s = .fault f := by
  unfold acEval
  rw [if_pos ha]
  unfold State.evalFault at hf
  cases hp : s.inputFault .pos with
  | some g =>
    rw [hp] at hf
    injection hf with hf
    rw [inputValue_fault hp, hf]
  | none =>
    rw [hp] at hf
    obtain ⟨vp, hvp⟩ := inputFault_eq_none_iff.1 hp
    rw [inputValue_of_some hvp, inputValue_fault hf]

/-- The positive channel is looked at first (R255). -/
theorem evalFault_of_pos (hf : s.inputFault .pos = some f) : s.evalFault = some f := by
  unfold State.evalFault; rw [hf]

theorem evalFault_of_neg (hp : s.acInput .pos = some u) (hf : s.inputFault .neg = some f) : s.evalFault = some f := by
  unfold State.evalFault
  rw [inputFault_eq_none_iff.2 ⟨u, hp⟩]
  exact hf

/-! ### The three faults of a channel (R242) -/

theorem inputFault_index (h : (s.cfg.channels m).length ≤ s.acMux m) :
    s.inputFault m = some (.acChannelIndex m (s.acMux m) s) := by
  have hsel : s.acSelected m = none := List.getElem?_eq_none h
  simp only [State.inputFault, hsel]

theorem inputFault_source {k : SourceId} (h : s.acSelected m = some (.src k)) (hv : s.chanValue k = none) :
    s.inputFault m = some (.acInputUndefined (.src k) s) := by
  simp only [State.inputFault, h, hv, if_true]

theorem inputFault_ref (h : s.acSelected m = some .ref) (hv : s.ac.ref = none) :
    s.inputFault m = some (.acInputUndefined .ref s) := by
  simp only [State.inputFault, h, hv, if_true]

end

/-! ## An evaluation and the one after it -/

/-- A width is not negative (R8), so that a comparison repeated with the same inputs keeps its result (R251). -/
theorem hysteresisStep_idem (raw : Bool) (d : Volt) {w : Volt} (hw : 0 ≤ w) :
    hysteresisStep (hysteresisStep raw d w) d w = hysteresisStep raw d w := by
  by_cases hup : w / 2 < d
  · have hdown : ¬ d < -(w / 2) := by linarith
    simp [hysteresisStep, hup, hdown]
  · by_cases hdown : d < -(w / 2) <;> simp [hysteresisStep, hup, hdown]

theorem hysteresisWidth_nonneg (s : State) : 0 ≤ s.hysteresisWidth := by
  unfold State.hysteresisWidth Config.acHys
  split
  · exact le_refl 0
  · exact s.cfg.acHys1.nonneg
  · exact s.cfg.acHys2.nonneg
  · exact s.cfg.acHys3.nonneg

/-- As `Evaluated`, but for what becomes of the request line and the trace. -/
def ComparedTo (s : State) (vp vn : Volt) (t : State) : Prop :=
  t = { s with
    ac := { s.ac with raw := s.rawAfter vp vn, out := s.outAfter vp vn, cmp := s.cmpAfter vp vn }
    acReq := t.acReq
    trace := t.trace }

section

variable {s t : State} {vp vn : Volt} {h : Handler}

theorem raiseOutside_next_silent {bus : BusId} {id : SignalId} {p : Payload} (hs : s.env = [])
    (e : raiseOutside h bus id p s = .next t) : t = s.emitAll (s.signals bus id p) := by
  have hb : bus ∉ s.delivering := (signalRaise_next e).1
  rw [raiseOutside_silent h bus id p hs hb] at e
  injection e with e
  exact e.symm

/-- A publication in a silent environment stores the output, and sets CMP where it changed and the transition qualifies
(R255, R258); whatever the request line was. -/
theorem publishOutput_next_silent {new : Bool} (hs : s.env = []) (e : publishOutput h new s = .next t) :
    t = { s with
      ac := { s.ac with out := new, cmp := s.ac.cmp || (new != s.ac.out && qualifies s.acIntmode s.ac.out new) }
      acReq := t.acReq
      trace := t.trace } := by
  rcases publishOutput_next e with ⟨rfl, rfl⟩ | ⟨hne, u, hu, rfl⟩
  · simp
  · obtain rfl := raiseOutside_next_silent (s := s.setAcOut new) hs hu
    have hmode : ((s.setAcOut new).emitAll ((s.setAcOut new).signals .acOut .acOutput (.acBit new))).acIntmode =
        s.acIntmode := rfl
    rw [hmode, bne_iff_ne.2 hne, Bool.true_and]
    cases qualifies s.acIntmode s.ac.out new with
    | false => rw [Bool.or_false]; rfl
    | true => rw [Bool.or_true, if_pos rfl, State.updateAcReq_eq]; rfl

/-- An evaluation that completes in a silent environment did nothing to an inactive comparator, or compared the two
inputs (R255). -/
theorem acEval_next_silent (hs : s.env = []) (e : acEval h s = .next t) :
    (s.acActive = false ∧ t = s) ∨
    (s.acActive = true ∧ ∃ vp vn, s.acInput .pos = some vp ∧ s.acInput .neg = some vn ∧ ComparedTo s vp vn t) := by
  rcases acEval_next e with idle | ⟨ha, vp, vn, hp, hn, e⟩
  · exact .inl idle
  · exact .inr ⟨ha, vp, vn, hp, hn, publishOutput_next_silent (s := s.setRaw (s.rawAfter vp vn)) hs e⟩

section

variable (c : ComparedTo s vp vn t)

include c

theorem ComparedTo.acActive : t.acActive = s.acActive := by rw [c]; rfl

theorem ComparedTo.acInput (m : Mux) : t.acInput m = s.acInput m := by rw [c]; rfl

theorem ComparedTo.raw : t.ac.raw = s.rawAfter vp vn := by rw [c]

theorem ComparedTo.out : t.ac.out = s.outAfter vp vn := by rw [c]

theorem ComparedTo.cmp : t.ac.cmp = s.cmpAfter vp vn := by rw [c]

theorem ComparedTo.rawAfter : t.rawAfter vp vn = t.ac.raw := by
  have hw : t.hysteresisWidth = s.hysteresisWidth := by rw [c]; rfl
  unfold State.rawAfter
  rw [hw, c.raw]
  exact hysteresisStep_idem s.ac.raw (vp - vn) (hysteresisWidth_nonneg s)

theorem ComparedTo.outAfter : t.outAfter vp vn = t.ac.out := by
  have hi : t.acInvert = s.acInvert := by rw [c]; rfl
  unfold State.outAfter
  rw [c.rawAfter, hi, c.raw, c.out]
  rfl

/-- A second evaluation with the same inputs changes nothing (R251, R252). -/
theorem ComparedTo.acEval_again (ha : s.acActive = true) (hp : s.acInput .pos = some vp) (hn : s.acInput .neg = some vn) :
    acEval h t = .next t := by
  rw [acEval_active (c.acActive.trans ha) ((c.acInput .pos).trans hp) ((c.acInput .neg).trans hn), c.rawAfter, c.outAfter]
  exact if_pos rfl

end

/-- Two evaluations in a row are one (R244, R260). -/
theorem acEval_twice_silent (hs : s.env = []) : andThen (acEval h s) (acEval h) = acEval h s := by
  cases e : acEval h s with
  | fault f => rfl
  | refused q => rfl
  | next t =>
    rw [andThen_next]
    rcases acEval_next_silent hs e with ⟨ha, rfl⟩ | ⟨ha, vp, vn, hp, hn, c⟩
    · exact acEval_inactive ha
    · exact c.acEval_again ha hp hn

end

/-! ## CTRLA -/

/-- `CTRLA <- v` under its mask, and `ac.suspended` recomputed (R244, R43). -/
def State.storeCtrla (s : State) (v : Byte) : State :=
  (s.setCtrla (v &&& ctrlaMask)).setSuspended (s.setCtrla (v &&& ctrlaMask)).suspendedNow

section

variable {s : State} {v : Byte} {h : Handler}

theorem acActive_of_suspended (hs : s.ac.suspended = true) : s.acActive = false := by
  simp [State.acActive, hs]

/-- A write to CTRLA evaluates, and where it ends a suspension did so once before (R244, R260). -/
theorem writeCtrla_eq (h : Handler) (v : Byte) (s : State) :
    writeCtrla h v s = andThen
      (if s.ac.suspended && !(s.setCtrla (v &&& ctrlaMask)).suspendedNow then acEval h (s.storeCtrla v)
        else .next (s.storeCtrla v)) (acEval h) := rfl

theorem writeCtrla_inactive (hi : (s.storeCtrla v).acActive = false) : writeCtrla h v s = .next (s.storeCtrla v) := by
  rw [writeCtrla_eq, acEval_inactive hi, ite_self, andThen_next, acEval_inactive hi]

theorem writeCtrla_silent (hs : s.env = []) : writeCtrla h v s = acEval h (s.storeCtrla v) := by
  rw [writeCtrla_eq]
  split
  · exact acEval_twice_silent hs
  · rfl

theorem writeCtrla_fault {f : Fault} (hf : acEval h (s.storeCtrla v) = .fault f) : writeCtrla h v s = .fault f := by
  rw [writeCtrla_eq]
  split
  · rw [hf]; rfl
  · exact hf

theorem exec_wrAcCtrla (ho : s.Operating) (hs : s.cfg.acSpan = 8) (v : Byte) :
    exec (.wrAcCtrla v) s = writeCtrla topHandler v s :=
  exec_acWrite (off := 0x00) ho hs rfl (by decide)

theorem storeCtrla_resumed (hn : (s.setCtrla (v &&& ctrlaMask)).suspendedNow = false) :
    s.storeCtrla v = (s.setCtrla (v &&& ctrlaMask)).setSuspended false := by
  unfold State.storeCtrla; rw [hn]

end

/-- Settles O41 by `writeCtrla_inactive`. -/
theorem ctrlaWriteWhileInactive : Obligations.CtrlaWriteWhileInactive := by
  intro s v ho hs c hi
  have inactive : (s.storeCtrla v).acActive = false := by
    rcases hi with he | hn
    · exact acActive_of_disabled he
    · exact acActive_of_suspended hn
  exact (exec_wrAcCtrla ho hs v).trans (writeCtrla_inactive inactive)

/-- Settles O42: in a silent environment the write is one evaluation (`writeCtrla_silent`). -/
theorem ctrlaWriteEvaluates : Obligations.CtrlaWriteEvaluates := by
  intro s v vp vn ho hs hspan hp hn c he hnow
  rw [exec_wrAcCtrla ho hspan, writeCtrla_silent hs, storeCtrla_resumed hnow]
  exact ho.evaluates hs rfl rfl rfl rfl (acActive_of he rfl) hp hn

/-! ## MUXCTRLA -/

/-- Settles O43: the write is an evaluation with the newly selected channels, and each fault is that of a channel. -/
theorem muxctrlaWriteSelectsAndEvaluates : Obligations.MuxctrlaWriteSelectsAndEvaluates := by
  intro s v ho hs c
  have hw : exec (.wrAcMuxctrla v) s = acEval topHandler c := exec_acWrite (off := 0x02) ho hs rfl (by decide)
  rw [hw]
  have pos {f : Fault} (ha : s.acActive = true) (hf : c.inputFault .pos = some f) : acEval topHandler c = .fault f :=
    acEval_fault topHandler ha (evalFault_of_pos hf)
  refine ⟨fun hi => acEval_inactive hi, fun ha hsil vp vn hp hn => ho.evaluates hsil rfl rfl rfl rfl ha hp hn,
    fun ha hlen => pos ha (inputFault_index hlen), fun ha k hsel hv => pos ha (inputFault_source hsel hv),
    fun ha hsel hv => pos ha (inputFault_ref hsel hv), fun ha vp hp => ?_⟩
  have neg {f : Fault} (hf : c.inputFault .neg = some f) : acEval topHandler c = .fault f :=
    acEval_fault topHandler ha (evalFault_of_neg hp hf)
  exact ⟨fun hlen => neg (inputFault_index hlen), fun k hsel hv => neg (inputFault_source hsel hv),
    fun hsel hv => neg (inputFault_ref hsel hv)⟩

/-! ## The other forms that evaluate -/

/-- Settles O58: each form is an evaluation of the state it names, and `acEval_fault` gives its fault. -/
theorem evaluatingFormsEndInTheirInputFault : Obligations.EvaluatingFormsEndInTheirInputFault := by
  intro s v k u m f ho
  refine ⟨fun hs he hn hf => ?ctrla, fun ha hsel hf => ?achan, fun ha hsel hf => ?aref,
    fun hsus he => ⟨fun hm hb hf => ?sleep, fun hf => ?wake⟩⟩
  case ctrla =>
    rw [exec_wrAcCtrla ho hs]
    refine writeCtrla_fault ?_
    rw [storeCtrla_resumed hn]
    exact acEval_fault topHandler (acActive_of he rfl) hf
  case achan =>
    rw [exec_achan ho.ready]
    exact (if_pos hsel).trans (acEval_fault topHandler ha hf)
  case aref =>
    rw [exec_aref ho.ready]
    exact (if_pos hsel).trans (acEval_fault topHandler ha hf)
  case sleep =>
    rw [exec_sleep ho.ready hm, recomputeSuspended_resume (s := { s with sleep := some m }) hsus hb]
    exact acEval_fault topHandler (acActive_of he rfl) hf
  case wake =>
    rw [exec_wake ho.ready, wakeOp_suspended hsus]
    exact acEval_fault topHandler (acActive_of he rfl) hf

/-- Settles O48: AREF evaluates (O47), and a changed output reports to the one hook of the list before the Raise. -/
theorem outputChangeIsPublishedAndRaises : Obligations.OutputChangeIsPublishedAndRaises := by
  intro s u vp vn hook tag ho hs hsub hsel ha c hp hn hne
  obtain ⟨-, evaluates⟩ := arefStoresAndEvaluates s u ho
  obtain ⟨t, ht, he⟩ := evaluates hsel ha hs vp vn hp hn
  refine ⟨t, ht, he, ?_⟩
  have hsig : c.signals .acOut .acOutput (.acBit (c.outAfter vp vn)) =
      [.signal .acOut .acOutput (.acBit (c.outAfter vp vn)) tag] := by
    have hlist : c.subscribers .acOut = [.ext hook tag] := hsub
    simp [State.signals, hlist, signalTo]
  have hchange : ¬ c.outAfter vp vn = c.ac.out := hne
  rw [he]
  show s.trace ++ c.evalEvents vp vn = _
  rw [State.evalEvents, if_neg hchange, hsig]
  rfl

/-! ## STATUS.CMP -/

/-- If CMP is set in `t`, then it was in `s`, or the output differs (R258, R259). -/
def CmpByTransition (s t : State) : Prop := t.ac.cmp = true → s.ac.cmp = true ∨ t.ac.out ≠ s.ac.out

section

variable {s c t : State} {h : Handler}

theorem cmpByTransition_of_ac (hac : t.ac = s.ac) : CmpByTransition s t := fun hc => .inl (hac ▸ hc)

theorem cmpByTransition_of_clear (hc : t.ac.cmp = false) : CmpByTransition s t := fun h => by
  rw [hc] at h; cases h

/-- Registers and inputs may change before the evaluation. -/
theorem CmpByTransition.after (k : CmpByTransition c t) (hcmp : c.ac.cmp = s.ac.cmp) (hout : c.ac.out = s.ac.out) :
    CmpByTransition s t := by
  unfold CmpByTransition at *
  rwa [hcmp, hout] at k

/-- R258: an evaluation sets CMP only where the output changed. -/
theorem acEval_cmp (hs : s.env = []) (e : acEval h s = .next t) : CmpByTransition s t := by
  rcases acEval_next_silent hs e with ⟨-, rfl⟩ | ⟨-, vp, vn, -, -, k⟩
  · exact cmpByTransition_of_ac rfl
  · intro hc
    rw [k.cmp, State.cmpAfter, Bool.or_eq_true, Bool.and_eq_true, bne_iff_ne] at hc
    rw [k.out]
    exact hc.imp_right And.left

theorem evaluateIf_cmp {p : Bool} (hs : s.env = []) (e : (if p then acEval h s else .next s) = .next t) :
    CmpByTransition s t := by
  split at e
  · exact acEval_cmp hs e
  · injection e with e; exact cmpByTransition_of_ac (by rw [e])

theorem recomputeSuspended_cmp (hs : s.env = []) (e : recomputeSuspended h s = .next t) : CmpByTransition s t :=
  (evaluateIf_cmp (s := s.setSuspended s.suspendedNow) hs e).after rfl rfl

theorem acWrite_cmp {reg : AcReg} {v : Byte} (hs : s.env = []) (e : acWrite h reg v s = .next t) :
    CmpByTransition s t := by
  cases reg with
  | ctrla =>
    have hw : acEval h (s.storeCtrla v) = .next t := (writeCtrla_silent hs).symm.trans e
    exact (acEval_cmp (s := s.storeCtrla v) hs hw).after rfl rfl
  | muxctrla => exact (acEval_cmp (s := s.setMuxctrla (v &&& muxctrlaMask)) hs e).after rfl rfl
  | intctrl =>
    injection e with e
    subst e
    rw [State.updateAcReq_eq]
    exact .inl
  | status =>
    injection e with e
    subst e
    rw [State.updateAcReq_eq]
    split
    · exact cmpByTransition_of_clear rfl
    · exact .inl
  | reserved => injection e with e; exact cmpByTransition_of_ac (by rw [e])

/-- RESET leaves CMP clear (R263, R48). -/
theorem resetOp_cmp (hs : s.env = []) (e : resetOp h s = .next t) : t.ac.cmp = false := by
  obtain ⟨u, v, hu, hv, rfl⟩ := resetOp_next e
  have henv : u.env = [] := by
    obtain ⟨ou, -⟩ := redriveList_mirrored (m := s.sleep) (s := s.clearPort) ⟨hs, .inr rfl⟩ h pinOrder u hu
    exact ou.env.trans hs
  obtain ⟨w, hw, rfl⟩ := acReset_next hv
  have cleared : w.ac.cmp = false := by
    rcases hw with ⟨-, hw⟩ | ⟨-, rfl⟩
    · rw [raiseOutside_next_silent (s := u.clearAc.setAcOut false) henv hw]; rfl
    · rfl
  rw [State.updateAcReq_eq]
  exact cleared

theorem initOp_ac (e : initOp s = .next t) : t.ac = s.ac := by
  unfold initOp at e
  split at e <;> injection e with e <;> subst e <;> rfl

/-- A transaction of the PORT leaves the comparator alone (O53's `transact_mirrored`); every other one is looked at. -/
theorem transact_cmp {q : Request} (hs : s.Silent) (e : transact q s = .next t) : CmpByTransition s t := by
  by_cases hport : concernsPort q = true
  · obtain ⟨hst, -⟩ := transact_mirrored (m := s.sleep) ⟨hs, .inr rfl⟩ hport t e
    exact cmpByTransition_of_ac (by rw [hst])
  obtain ⟨-, -, e⟩ := transact_next e
  cases q with
  | pinset | getPortSignal => exact absurd rfl hport
  | read r off =>
    obtain ⟨b, -, rfl⟩ := busRead_next e
    exact cmpByTransition_of_ac rfl
  | write r off v =>
    obtain rfl : r = .ac := by simpa [concernsPort] using hport
    obtain ⟨c, -, e⟩ := busWrite_next e
    cases ho : c.owner <;> rw [ho] at e
    · injection e with e; exact cmpByTransition_of_ac (by rw [e])
    · exact acWrite_cmp hs e
  | reset => exact cmpByTransition_of_clear (resetOp_cmp hs e)
  | init => exact cmpByTransition_of_ac (initOp_ac e)
  | sleep m =>
    have e : sleepOp topHandler m s = .next t := e
    unfold sleepOp at e
    split at e
    · exact (recomputeSuspended_cmp (s := { s with sleep := some m }) hs e).after rfl rfl
    · cases e
  | wake =>
    have e : wakeOp topHandler s = .next t := e
    cases hsus : s.ac.suspended with
    | true =>
      rw [wakeOp_suspended hsus] at e
      exact (acEval_cmp (s := State.setSuspended { s with sleep := none } false) hs e).after rfl rfl
    | false =>
      rw [wakeOp_running hsus] at e
      injection e with e
      exact cmpByTransition_of_ac (by rw [← e])
  | achan k u => exact (evaluateIf_cmp (s := s.setChan k u) hs e).after rfl rfl
  | aref u => exact (evaluateIf_cmp (s := s.setRef u) hs e).after rfl rfl
  | getAcOut => injection e with e; exact cmpByTransition_of_ac (by rw [← e]; rfl)
  | getAcRef =>
    have e : getAcRefOp s = .next t := e
    unfold getAcRefOp at e
    split at e
    · cases e
    · injection e with e; exact cmpByTransition_of_ac (by rw [← e]; rfl)

end

/-- Settles O52 by `transact_cmp`. -/
theorem cmpIsSetOnlyByATransition : Obligations.CmpIsSetOnlyByATransition := by
  intro i s t hs e hclear hset
  obtain ⟨q, -, e⟩ := exec_next e
  refine (transact_cmp hs e hset).resolve_left ?_
  rw [hclear]
  exact Bool.false_ne_true

end Sys2Proof.Machine
end

section
/-! PROOFS. The two request lines (O40). A line that already has the value written to it
changes the trace alone (R301, R302); the AC line moves only where it differs from what is wanted (R262). -/

namespace Sys2Proof.Machine

open Sys2Proof

/-! ## The request lines -/

section

variable {s : State}

theorem raisePort_of_pending (h : s.portReq = true) : s.raisePort = s.emit (.raise s.cfg.portVector) := by
  unfold State.raisePort
  rw [← h]

theorem cancelPort_of_idle (h : s.portReq = false) : s.cancelPort = s.emit (.cancel s.cfg.portVector) := by
  unfold State.cancelPort
  rw [← h]

theorem updateAcReq_raises (hr : s.acReq = false) (hw : s.acReqWanted = true) :
    s.updateAcReq = State.emit { s with acReq := true } (.raise s.cfg.acVector) := by
  rw [State.updateAcReq_eq, hr, hw]
  rfl

theorem updateAcReq_cancels (hr : s.acReq = true) (hw : s.acReqWanted = false) :
    s.updateAcReq = State.emit { s with acReq := false } (.cancel s.cfg.acVector) := by
  rw [State.updateAcReq_eq, hr, hw]
  rfl

end

/-- Settles O40: the PORT line by what each operation writes to it, the AC line by the three cases of wanted against
pending. -/
theorem raiseAndCancelAreIdempotent : Obligations.RaiseAndCancelAreIdempotent := fun _ =>
  ⟨raisePort_of_pending, cancelPort_of_idle, updateAcReq_self, updateAcReq_raises, updateAcReq_cancels⟩

end Sys2Proof.Machine
end

section
/-! PROOFS. The lifecycle: what INIT leaves (O12), the way from INIT and RESET to the reset values (O13), and which
transactions each lifecycle state admits (O14). -/

namespace Sys2Proof.Machine

open Sys2Proof

/-! ## INIT -/

section

variable {s : State}

theorem exec_init (h : s.init = .uninitialized) : exec .init s = initOp s := transact_init h

/-- R344, R346: a failing INIT completes; what it leaves of claims and lists is not said. -/
theorem initOp_fails (h : s.cfg.initOk = false) :
    initOp s = .next { s with claims := s.cfg.partialClaims, subs := s.cfg.partialSubs, init := .failed } := by
  simp [initOp, h]

/-- Settles O12: INIT is admitted in an uninitialized block, and both its outcomes are the definition's. -/
theorem initCompletes : Obligations.InitCompletes := fun _ h =>
  ⟨fun hok => (exec_init h).trans (initOp_ok hok), fun hbad => ⟨_, (exec_init h).trans (initOp_fails hbad), rfl, rfl⟩⟩

/-! ## INIT and RESET -/

/-- Before INIT the invariant constrains no register, claim or list (R48). -/
theorem inv_of_uninitialized (h : s.init = .uninitialized) (hd : s.delivering = []) (hc : chanWf s.ac.chan = true)
    (hp : ∀ i, s.cfg.hasPin i = false → s.pin i = none) : s.Inv where
  delivering := hd
  chan := hc
  absentPins := hp
  registered hl := by rw [h] at hl; exact hl.elim nofun nofun
  port hr := by rw [h] at hr; cases hr
  ac hr := by rw [h] at hr; cases hr
  pins hr := by rw [h] at hr; cases hr

/-- The pins after a re-drive to Floating are those of the reset state (R48). -/
theorem pins_eq_resetWith {pins : Vector (Option PinState) 8} (habsent : ∀ i, s.cfg.hasPin i = false → s.pin i = none)
    (h : ∀ i : PinIx, pins[i] = if s.cfg.hasPin i then some PinState.floating else s.pin i) :
    pins = (State.resetWith s.cfg).pins := by
  refine Vector.ext fun i hi => (h ⟨i, hi⟩).trans (Eq.trans ?_ (resetWith_pin s.cfg ⟨i, hi⟩).symm)
  cases hpin : s.cfg.hasPin ⟨i, hi⟩ with
  | true => rfl
  | false => exact habsent _ hpin

/-- Settles O13: INIT registers (`initOp_ok`), which is all that RESET in a silent environment needs (`resetOp_silent`);
the invariant holds before INIT and both transactions keep it. -/
theorem bootReachesTheResetValues : Obligations.BootReachesTheResetValues := by
  intro s h hd hs hok hchan habsent
  have hinit := initOp_ok hok
  have hinv := initOp_inv (inv_of_uninitialized h hd hchan habsent) hinit
  obtain ⟨pins, hpins, e⟩ := resetOp_silent (hinv.registered (.inl rfl)) hs hd
  have hreset := (transact_reset (.inl rfl)).trans e
  exact ⟨_, _, (exec_init h).trans hinit, hreset, rfl, pins_eq_resetWith habsent hpins, rfl, rfl, rfl, rfl, rfl, rfl,
    transact_inv (q := .reset) hinv nofun hreset⟩

end

/-! ## Admission -/

section

variable {s : State} {q : Request}

/-- R91: the decoder hands on no bus transaction outside its region. -/
theorem claimed_of_requestOfWord {c : Config} {w : Tw20} {u : Volt} (h : requestOfWord c w u = .ok q) :
    Request.claimed c q = true := by
  rw [requestOfWord_eq_verdict] at h
  cases hq : requestOfInstr (decode w u) with
  | none => rw [verdictOfInstr_reserved hq] at h; cases h
  | some q' =>
    rw [verdictOfInstr_some hq] at h
    split at h
    · injection h with h; subst h; assumption
    · cases h

/-- R344: a claimed transaction is refused as its admission says, or performed. -/
theorem transact_of_claimed (h : Request.claimed s.cfg q = true) :
    transact q s = (admission s.init q).elim (performAdmitted topHandler q s) .refused := by
  simp only [transact, transactWith, h, if_true]
  cases admission s.init q <;> rfl

/-- R91, R344: the instruction of a word whose decoding is accepted goes to the admission. -/
theorem exec_decode_of_ok {w : Tw20} {u : Volt} (h : requestOfWord s.cfg w u = .ok q) :
    exec (decode w u) s = (admission s.init q).elim (performAdmitted topHandler q s) .refused := by
  rw [exec_decode, performInput_of_ok (q := q) (by simp only [requestOf, h])]
  exact transact_of_claimed (claimed_of_requestOfWord h)

theorem exec_decode_of_error {w : Tw20} {u : Volt} {e : DecodeRefusal} (h : requestOfWord s.cfg w u = .error e) :
    exec (decode w u) s = .refused (refusalOf e) := by
  rw [exec_decode, performInput_of_error (e := refusalOf e) (by simp only [requestOf, h])]

variable {st : InitStatus}

theorem admission_failed (q : Request) : admission .failed q = some .initFailed := rfl

theorem admission_init_of_live (h : st = .initialized ∨ st = .ready) :
    admission st .init = some .alreadyInitialized := by
  rcases h with rfl | rfl <;> rfl

theorem admission_uninitialized (h : q ≠ .init) : admission .uninitialized q = some .notReady := if_neg h

theorem admission_initialized (hi : q ≠ .init) (hr : q ≠ .reset) : admission .initialized q = some .notReady :=
  (if_neg hi).trans (if_neg hr)

/-- R344: what each lifecycle state performs. -/
theorem admission_eq_none (h : (q = .init ∧ st = .uninitialized) ∨ (q = .reset ∧ (st = .initialized ∨ st = .ready)) ∨
    (q ≠ .init ∧ st = .ready)) : admission st q = none := by
  rcases h with ⟨rfl, rfl⟩ | ⟨rfl, rfl | rfl⟩ | ⟨hq, rfl⟩
  · rfl
  · rfl
  · rfl
  · exact if_neg hq

end

/-- Settles O14: the decoder's verdict, then the admission of each lifecycle state by its own lemma. -/
theorem lifecycleAdmits : Obligations.LifecycleAdmits := by
  refine fun w u s => ⟨fun e => exec_decode_of_error, fun q hq => ?_⟩
  rw [exec_decode_of_ok hq]
  refine ⟨fun h => ?_, fun hi h => ?_, fun hi h => ?_, fun hi hr h => ?_, fun h => ?_, fun hi h hbad => ?_⟩
  · rw [h, admission_failed]; rfl
  · rw [hi, admission_init_of_live h]; rfl
  · rw [h, admission_uninitialized hi]; rfl
  · rw [h, admission_initialized hi hr]; rfl
  · rw [admission_eq_none h]; rfl
  · rw [admission_eq_none (.inl ⟨hi, h⟩), hi]
    exact ⟨_, initOp_fails hbad, rfl⟩

end Sys2Proof.Machine
end
